-- ==== Sys2Proof/Word.lean ====
section
/-! DEFINITION. The widths of the machine (spec/00_scope.md R5) and nothing else. -/

namespace Sys2Proof

/-- A data register, a timer, a memory byte, an immediate `kk` (R5 `REG_BITS`, `TIMER_BITS`; R20). -/
abbrev Byte := BitVec 8

/-- An instruction word, PC, I, a stack entry (R5 `PC_BITS`, `I_BITS`, `STACK_BITS`; R70). -/
abbrev Word := BitVec 16

/-- The 12-bit address field `nnn` of an instruction (R71). -/
abbrev Addr := BitVec 12

/-- The number of a data register, `x` or `y` (R71, R73: all sixteen are legal everywhere). -/
abbrev Reg := Fin 16

/-- VF is V[15] (R21). -/
abbrev regF : Reg := 15

/-- `MEM_SIZE` (R5): 4096 bytes. -/
abbrev memSize : Nat := 4096

/-- `PROG_BASE` (R5): the load address of the ROM image and the entry point. -/
abbrev progBase : Nat := 0x200

/-- `ROM_MAX` (R5): 4096 - 0x200 bytes. -/
abbrev romMax : Nat := 3584

/-- `STACK_DEPTH` (R5). -/
abbrev stackDepth : Nat := 16

/-- `DISP_W` and `DISP_H` (R5). -/
abbrev dispW : Nat := 64

/-- `DISP_H` (R5). -/
abbrev dispH : Nat := 32

end Sys2Proof
end

