-- ==== Sys2Proof/Syntax.lean ====
section
/-! DEFINITION. The instructions: one constructor for each row of spec/opcode_table.json (spec/30_encoding.md R75), with the
fields of R71 as operands. -/

namespace Sys2Proof

/-- The instructions of the machine, in the order of the table (R75). -/
inductive Instr where
  /-- `00E0` CLS (R160). -/
  | cls
  /-- `00EE` RET (R100). -/
  | ret
  /-- `1nnn` JP nnn (R101). -/
  | jp (nnn : Addr)
  /-- `2nnn` CALL nnn (R102). -/
  | call (nnn : Addr)
  /-- `3xkk` SE Vx, kk (R103). -/
  | seImm (x : Reg) (kk : Byte)
  /-- `4xkk` SNE Vx, kk (R104). -/
  | sneImm (x : Reg) (kk : Byte)
  /-- `5xy0` SE Vx, Vy (R105). -/
  | seReg (x y : Reg)
  /-- `6xkk` LD Vx, kk (R120). -/
  | ldImm (x : Reg) (kk : Byte)
  /-- `7xkk` ADD Vx, kk (R121). -/
  | addImm (x : Reg) (kk : Byte)
  /-- `8xy0` LD Vx, Vy (R122). -/
  | ldReg (x y : Reg)
  /-- `8xy1` OR Vx, Vy (R123). -/
  | orReg (x y : Reg)
  /-- `8xy2` AND Vx, Vy (R124). -/
  | andReg (x y : Reg)
  /-- `8xy3` XOR Vx, Vy (R125). -/
  | xorReg (x y : Reg)
  /-- `8xy4` ADD Vx, Vy (R126). -/
  | addReg (x y : Reg)
  /-- `8xy5` SUB Vx, Vy (R127). -/
  | subReg (x y : Reg)
  /-- `8xy6` SHR Vx (R128); the `y` field is decoded (R73). -/
  | shr (x y : Reg)
  /-- `8xy7` SUBN Vx, Vy (R129). -/
  | subnReg (x y : Reg)
  /-- `8xyE` SHL Vx (R130); the `y` field is decoded (R73). -/
  | shl (x y : Reg)
  /-- `9xy0` SNE Vx, Vy (R106). -/
  | sneReg (x y : Reg)
  /-- `Annn` LD I, nnn (R140). -/
  | ldI (nnn : Addr)
  /-- `Bnnn` JP V0, nnn (R107). -/
  | jpV0 (nnn : Addr)
  /-- `Cxkk` RND Vx, kk (R131). -/
  | rnd (x : Reg) (kk : Byte)
  /-- `Dxyn` DRW Vx, Vy, n (R161); `n` is a number of rows, 0..15. -/
  | drw (x y : Reg) (n : Fin 16)
  /-- `Ex9E` SKP Vx (R173). -/
  | skp (x : Reg)
  /-- `ExA1` SKNP Vx (R174). -/
  | sknp (x : Reg)
  /-- `Fx07` LD Vx, DT (R170). -/
  | ldVxDT (x : Reg)
  /-- `Fx0A` LD Vx, K (R175). -/
  | ldVxK (x : Reg)
  /-- `Fx15` LD DT, Vx (R171). -/
  | ldDTVx (x : Reg)
  /-- `Fx18` LD ST, Vx (R172). -/
  | ldSTVx (x : Reg)
  /-- `Fx1E` ADD I, Vx (R141). -/
  | addI (x : Reg)
  /-- `Fx29` LD F, Vx (R142). -/
  | ldF (x : Reg)
  /-- `Fx33` LD B, Vx (R143). -/
  | ldB (x : Reg)
  /-- `Fx55` LD [I], Vx (R144). -/
  | ldMemVx (x : Reg)
  /-- `Fx65` LD Vx, [I] (R145). -/
  | ldVxMem (x : Reg)
  /-- The table's row `0nnn`, marked illegal (R77, R83): every `0nnn` word but `00E0` and `00EE`. It is the `Unknown(op)` of R74
  for that part of the space, as a constructor because the table has a row for it (log 11). -/
  | illegal0nnn (nnn : Addr)
deriving DecidableEq, Repr

end Sys2Proof
end

