-- ==== Sys2Proof/WellFormed.lean ====
section
/-! DEFINITION. Which terms of `Instr` stand for a word. Every operand's range is in its type (R73: all sixteen registers, all
values of `n`, `kk` and `nnn` are legal); what is left is the row `0nnn`, which excludes the words of CLS and RET (R77). -/

namespace Sys2Proof

/-- An instruction that some word decodes to. -/
def Instr.wellFormed : Instr → Bool
  | .illegal0nnn nnn => decide (nnn ≠ 0x0E0#12) && decide (nnn ≠ 0x0EE#12)
  | _ => true

end Sys2Proof
end

