-- ==== Sys2Proof/Decode.lean ====
section
/-! DEFINITION. The decoder (spec/30_encoding.md R70 to R80), total on words and on bytes, and after it the encoder, written
from the formats of R72 and the opcode map of R75. -/

namespace Sys2Proof

/-- Why bytes stand for no instruction of the table. -/
inductive Reject where
  /-- `Unknown(op)` (R74, R76): the word matches no row of the table. The step raises `IllegalOpcode` for it (R92). -/
  | unknown (op : Word)
  /-- Fewer than the two bytes of an instruction (R70). Fetch always supplies two, so no step meets it. -/
  | truncated
deriving DecidableEq, Repr

/-! ### Fields (R71) -/

/-- `c = op[15:12]`. -/
def fieldC (op : Word) : BitVec 4 := op.extractLsb' 12 4
/-- `x = op[11:8]`. -/
def fieldX (op : Word) : Reg := (op.extractLsb' 8 4).toFin
/-- `y = op[7:4]`. -/
def fieldY (op : Word) : Reg := (op.extractLsb' 4 4).toFin
/-- `n = op[3:0]`. -/
def fieldN (op : Word) : Fin 16 := (op.extractLsb' 0 4).toFin
/-- `kk = op[7:0]`. -/
def fieldKK (op : Word) : Byte := op.extractLsb' 0 8
/-- `nnn = op[11:0]`. -/
def fieldNNN (op : Word) : Addr := op.extractLsb' 0 12

/-! ### The two-level dispatch of R74 -/

/-- Family 0: `00E0`, `00EE`; every other `0nnn` word is illegal (R77). -/
def decode0 (op : Word) : Instr :=
  if op = 0x00E0#16 then .cls
  else if op = 0x00EE#16 then .ret
  else .illegal0nnn (fieldNNN op)

/-- Family 8, by the low nibble. -/
def decode8 (op : Word) : Except Reject Instr :=
  match (fieldN op).val with
  | 0x0 => .ok (.ldReg (fieldX op) (fieldY op))
  | 0x1 => .ok (.orReg (fieldX op) (fieldY op))
  | 0x2 => .ok (.andReg (fieldX op) (fieldY op))
  | 0x3 => .ok (.xorReg (fieldX op) (fieldY op))
  | 0x4 => .ok (.addReg (fieldX op) (fieldY op))
  | 0x5 => .ok (.subReg (fieldX op) (fieldY op))
  | 0x6 => .ok (.shr (fieldX op) (fieldY op))
  | 0x7 => .ok (.subnReg (fieldX op) (fieldY op))
  | 0xE => .ok (.shl (fieldX op) (fieldY op))
  | _ => .error (.unknown op)

/-- Family E, by the low byte. -/
def decodeE (op : Word) : Except Reject Instr :=
  match (fieldKK op).toNat with
  | 0x9E => .ok (.skp (fieldX op))
  | 0xA1 => .ok (.sknp (fieldX op))
  | _ => .error (.unknown op)

/-- Family F, by the low byte. -/
def decodeF (op : Word) : Except Reject Instr :=
  match (fieldKK op).toNat with
  | 0x07 => .ok (.ldVxDT (fieldX op))
  | 0x0A => .ok (.ldVxK (fieldX op))
  | 0x15 => .ok (.ldDTVx (fieldX op))
  | 0x18 => .ok (.ldSTVx (fieldX op))
  | 0x1E => .ok (.addI (fieldX op))
  | 0x29 => .ok (.ldF (fieldX op))
  | 0x33 => .ok (.ldB (fieldX op))
  | 0x55 => .ok (.ldMemVx (fieldX op))
  | 0x65 => .ok (.ldVxMem (fieldX op))
  | _ => .error (.unknown op)

/-- Families 5 and 9: the low nibble is part of the pattern (R78, conflict C6). -/
def decodeXY0 (op : Word) (i : Instr) : Except Reject Instr :=
  if fieldN op = 0 then .ok i else .error (.unknown op)

/-- The decoder of R74: a pure, total function of the word. -/
def decodeWord (op : Word) : Except Reject Instr :=
  match (fieldC op).toNat with
  | 0x0 => .ok (decode0 op)
  | 0x1 => .ok (.jp (fieldNNN op))
  | 0x2 => .ok (.call (fieldNNN op))
  | 0x3 => .ok (.seImm (fieldX op) (fieldKK op))
  | 0x4 => .ok (.sneImm (fieldX op) (fieldKK op))
  | 0x5 => decodeXY0 op (.seReg (fieldX op) (fieldY op))
  | 0x6 => .ok (.ldImm (fieldX op) (fieldKK op))
  | 0x7 => .ok (.addImm (fieldX op) (fieldKK op))
  | 0x8 => decode8 op
  | 0x9 => decodeXY0 op (.sneReg (fieldX op) (fieldY op))
  | 0xA => .ok (.ldI (fieldNNN op))
  | 0xB => .ok (.jpV0 (fieldNNN op))
  | 0xC => .ok (.rnd (fieldX op) (fieldKK op))
  | 0xD => .ok (.drw (fieldX op) (fieldY op) (fieldN op))
  | 0xE => decodeE op
  | _ => decodeF op

/-- The word of two bytes, the byte at the lower address first: big-endian, `(hi << 8) | lo` (R54, R70). -/
def wordOfBytes (hi lo : Byte) : Word := BitVec.ofNat 16 (hi.toNat * 2 ^ 8 + lo.toNat)

/-- The two bytes of a word as memory holds them, the one at the lower address first (R54). -/
def bytesOfWord (op : Word) : List Byte := [op.extractLsb' 8 8, op.extractLsb' 0 8]

/-- The decoder on bytes: the instruction at their head and the bytes after it. -/
def decode : List Byte → Except Reject (Instr × List Byte)
  | hi :: lo :: rest =>
    match decodeWord (wordOfBytes hi lo) with
    | .ok i => .ok (i, rest)
    | .error r => .error r
  | _ => .error .truncated

/-- The table's numbering of a row's bits is the word's own (bit 0 least significant, one word a row): the word of the
low `nbits` bits of `w`, every other bit 0. -/
def tableWord (nbits w : Nat) : Word := BitVec.ofNat 16 (w % 2 ^ nbits)

/-- What the decoder reads from the instruction whose bits are `w`, laid out in memory order. -/
def decodeTableWord (nbits w : Nat) : Option Instr :=
  match decode (bytesOfWord (tableWord nbits w)) with
  | .ok (i, _) => some i
  | .error _ => none

/-! ### The encoder -/

/-- Format NNN of R72: `c` in bits 15..12, `nnn` below. -/
def encNNN (c : Nat) (nnn : Addr) : Word := BitVec.ofNat 16 (c * 2 ^ 12 + nnn.toNat)
/-- Formats XKK and X of R72: `c`, `x` in bits 11..8, `kk` in bits 7..0. -/
def encXKK (c : Nat) (x : Reg) (kk : Byte) : Word := BitVec.ofNat 16 (c * 2 ^ 12 + x.val * 2 ^ 8 + kk.toNat)
/-- Formats XY and XYN of R72: `c`, `x`, `y` in bits 7..4, the low nibble in bits 3..0. -/
def encXYN (c : Nat) (x y n : Fin 16) : Word :=
  BitVec.ofNat 16 (c * 2 ^ 12 + x.val * 2 ^ 8 + y.val * 2 ^ 4 + n.val)

/-- The word of an instruction (R72, R75). -/
def encode : Instr → Word
  | .cls => 0x00E0
  | .ret => 0x00EE
  | .jp nnn => encNNN 0x1 nnn
  | .call nnn => encNNN 0x2 nnn
  | .seImm x kk => encXKK 0x3 x kk
  | .sneImm x kk => encXKK 0x4 x kk
  | .seReg x y => encXYN 0x5 x y 0x0
  | .ldImm x kk => encXKK 0x6 x kk
  | .addImm x kk => encXKK 0x7 x kk
  | .ldReg x y => encXYN 0x8 x y 0x0
  | .orReg x y => encXYN 0x8 x y 0x1
  | .andReg x y => encXYN 0x8 x y 0x2
  | .xorReg x y => encXYN 0x8 x y 0x3
  | .addReg x y => encXYN 0x8 x y 0x4
  | .subReg x y => encXYN 0x8 x y 0x5
  | .shr x y => encXYN 0x8 x y 0x6
  | .subnReg x y => encXYN 0x8 x y 0x7
  | .shl x y => encXYN 0x8 x y 0xE
  | .sneReg x y => encXYN 0x9 x y 0x0
  | .ldI nnn => encNNN 0xA nnn
  | .jpV0 nnn => encNNN 0xB nnn
  | .rnd x kk => encXKK 0xC x kk
  | .drw x y n => encXYN 0xD x y n
  | .skp x => encXKK 0xE x 0x9E
  | .sknp x => encXKK 0xE x 0xA1
  | .ldVxDT x => encXKK 0xF x 0x07
  | .ldVxK x => encXKK 0xF x 0x0A
  | .ldDTVx x => encXKK 0xF x 0x15
  | .ldSTVx x => encXKK 0xF x 0x18
  | .addI x => encXKK 0xF x 0x1E
  | .ldF x => encXKK 0xF x 0x29
  | .ldB x => encXKK 0xF x 0x33
  | .ldMemVx x => encXKK 0xF x 0x55
  | .ldVxMem x => encXKK 0xF x 0x65
  | .illegal0nnn nnn => encNNN 0x0 nnn

/-! ### The opcode map of R75 -/

/-- An instruction of the machine, against the table's row that is none (R83: 34 instructions, one illegal row). -/
def Instr.legal : Instr → Bool
  | .illegal0nnn _ => false
  | _ => true

/-- The `match` and the `mask` of the instruction's row: the word is this instruction exactly when `op & mask == match`
(R75). The row `0nnn` is the one that also has exclusions (R77). -/
def Instr.opcodeRow : Instr → Word × Word
  | .cls => (0x00E0, 0xFFFF)
  | .ret => (0x00EE, 0xFFFF)
  | .jp _ => (0x1000, 0xF000)
  | .call _ => (0x2000, 0xF000)
  | .seImm _ _ => (0x3000, 0xF000)
  | .sneImm _ _ => (0x4000, 0xF000)
  | .seReg _ _ => (0x5000, 0xF00F)
  | .ldImm _ _ => (0x6000, 0xF000)
  | .addImm _ _ => (0x7000, 0xF000)
  | .ldReg _ _ => (0x8000, 0xF00F)
  | .orReg _ _ => (0x8001, 0xF00F)
  | .andReg _ _ => (0x8002, 0xF00F)
  | .xorReg _ _ => (0x8003, 0xF00F)
  | .addReg _ _ => (0x8004, 0xF00F)
  | .subReg _ _ => (0x8005, 0xF00F)
  | .shr _ _ => (0x8006, 0xF00F)
  | .subnReg _ _ => (0x8007, 0xF00F)
  | .shl _ _ => (0x800E, 0xF00F)
  | .sneReg _ _ => (0x9000, 0xF00F)
  | .ldI _ => (0xA000, 0xF000)
  | .jpV0 _ => (0xB000, 0xF000)
  | .rnd _ _ => (0xC000, 0xF000)
  | .drw _ _ _ => (0xD000, 0xF000)
  | .skp _ => (0xE09E, 0xF0FF)
  | .sknp _ => (0xE0A1, 0xF0FF)
  | .ldVxDT _ => (0xF007, 0xF0FF)
  | .ldVxK _ => (0xF00A, 0xF0FF)
  | .ldDTVx _ => (0xF015, 0xF0FF)
  | .ldSTVx _ => (0xF018, 0xF0FF)
  | .addI _ => (0xF01E, 0xF0FF)
  | .ldF _ => (0xF029, 0xF0FF)
  | .ldB _ => (0xF033, 0xF0FF)
  | .ldMemVx _ => (0xF055, 0xF0FF)
  | .ldVxMem _ => (0xF065, 0xF0FF)
  | .illegal0nnn _ => (0x0000, 0xF000)

/-- The 34 match/mask pairs of R75, row by row. -/
def opcodeMap : List (Word × Word) :=
  [(0x00E0, 0xFFFF), (0x00EE, 0xFFFF), (0x1000, 0xF000), (0x2000, 0xF000), (0x3000, 0xF000), (0x4000, 0xF000)] ++
  [(0x5000, 0xF00F), (0x6000, 0xF000), (0x7000, 0xF000), (0x8000, 0xF00F), (0x8001, 0xF00F), (0x8002, 0xF00F)] ++
  [(0x8003, 0xF00F), (0x8004, 0xF00F), (0x8005, 0xF00F), (0x8006, 0xF00F), (0x8007, 0xF00F), (0x800E, 0xF00F)] ++
  [(0x9000, 0xF00F), (0xA000, 0xF000), (0xB000, 0xF000), (0xC000, 0xF000), (0xD000, 0xF000), (0xE09E, 0xF0FF)] ++
  [(0xE0A1, 0xF0FF), (0xF007, 0xF0FF), (0xF00A, 0xF0FF), (0xF015, 0xF0FF), (0xF018, 0xF0FF), (0xF01E, 0xF0FF)] ++
  [(0xF029, 0xF0FF), (0xF033, 0xF0FF), (0xF055, 0xF0FF), (0xF065, 0xF0FF)]

/-- A word is an instruction of this machine (R74, R76): it decodes to one of the 34. -/
def legalWord (op : Word) : Bool :=
  match decodeWord op with
  | .ok i => i.legal
  | .error _ => false

end Sys2Proof
end

