-- ==== Sys2Proof/Config.lean ====
section
/-! DEFINITION. What one machine fixes for good (the parameters of spec/00_scope.md R6, R7, R8), and the free values of
its inputs (R211, R221). -/

namespace Sys2Proof

/-- The parameters of a machine. The specified hardware has every quirk switch at its default (R7); the switches
stay parameters, as R7 keeps them. The value the spec calls standard is `Config.standard` in Machine/Font.lean. -/
structure Config where
  /-- `STEPS_PER_FRAME`, the document's N (R6): at least 1, default 10. -/
  stepsPerFrame : Nat
  /-- `QUIRK_SHIFT_USES_VY` (R7, U1), default false. -/
  shiftUsesVy : Bool
  /-- `QUIRK_LOADSTORE_INC_I` (R7, U2), default false. -/
  loadStoreIncI : Bool
  /-- `QUIRK_ADDI_SETS_VF` (R7, U3), default false; true is not settled by the document. -/
  addISetsVF : Bool
  /-- `QUIRK_KEYWAIT_ON_RELEASE` (R7, U4), default false; true is not settled by the document. -/
  keyWaitOnRelease : Bool
  /-- `QUIRK_LOGIC_RESETS_VF` (R7, U5), default false. -/
  logicResetsVF : Bool
  /-- `FONT` (R8): the 80 bytes reset places at 0x000 to 0x04F. -/
  font : Vector Byte 80
deriving DecidableEq, Repr

/-- The five bytes of glyph 0, the only ones the document gives (R8, R32). -/
def glyph0 : List Byte := [0xF0, 0x90, 0x90, 0x90, 0xF0]

/-- What a configuration must meet for every instruction of the machine to run: N at least 1 (R6), the two switches the
document does not settle at their default (R7, D16), and glyph 0 as the document gives it (R8). -/
def Config.supported (c : Config) : Bool :=
  decide (1 ≤ c.stepsPerFrame) && !c.addISetsVF && !c.keyWaitOnRelease && decide (c.font.toList.take 5 = glyph0)

/-- FREE VALUE (log 7): the answer of the n-th `poll()` (R211, U11), any 16-bit word. -/
opaque Config.keypadWord : Nat → BitVec 16

/-- FREE VALUE (log 8): the answer of the n-th `next_byte()` (R221, U10), any byte. -/
opaque Config.randomByte : Nat → Byte

end Sys2Proof
end

