-- ==== Sys2Proof/Machine/Font.lean ====
section
/-! DEFINITION. The font table and the standard configuration (spec/10_state.md R32; spec/00_scope.md R6, R7, R8). -/

namespace Sys2Proof

/-- The bytes of the font of R32, glyph by glyph, 0 to F. Glyph 0 is the document's; glyphs 1 to F are the spec's from general
knowledge (PRESUMED, log 3). -/
def fontBytes : List Byte :=
  [0xF0, 0x90, 0x90, 0x90, 0xF0] ++
  [0x20, 0x60, 0x20, 0x20, 0x70] ++
  [0xF0, 0x10, 0xF0, 0x80, 0xF0] ++
  [0xF0, 0x10, 0xF0, 0x10, 0xF0] ++
  [0x90, 0x90, 0xF0, 0x10, 0x10] ++
  [0xF0, 0x80, 0xF0, 0x10, 0xF0] ++
  [0xF0, 0x80, 0xF0, 0x90, 0xF0] ++
  [0xF0, 0x10, 0x20, 0x40, 0x40] ++
  [0xF0, 0x90, 0xF0, 0x90, 0xF0] ++
  [0xF0, 0x90, 0xF0, 0x10, 0xF0] ++
  [0xF0, 0x90, 0xF0, 0x90, 0x90] ++
  [0xE0, 0x90, 0xE0, 0x90, 0xE0] ++
  [0xF0, 0x80, 0x80, 0x80, 0xF0] ++
  [0xE0, 0x90, 0x90, 0x90, 0xE0] ++
  [0xF0, 0x80, 0xF0, 0x80, 0xF0] ++
  [0xF0, 0x80, 0xF0, 0x80, 0x80]

/-- The font table: 16 glyphs of 5 bytes (R5, R32). -/
def fontTable : Vector Byte 80 := ⟨fontBytes.toArray, by decide⟩

/-- N = 10 and every quirk switch at its default (R6, R7), the font of R32. -/
def Config.standard : Config where
  stepsPerFrame := 10
  shiftUsesVy := false
  loadStoreIncI := false
  addISetsVF := false
  keyWaitOnRelease := false
  logicResetsVF := false
  font := fontTable

end Sys2Proof
end

