-- ==== Sys2Proof/Machine/State.lean ====
section
/-! DEFINITION. The state of the machine (spec/10_state.md R20 to R37), the reasons a step can stop, and the state after
reset (R37). Plain data throughout. -/

namespace Sys2Proof.Machine

/-- The error kinds of R190, in the order of the document's table. -/
inductive ErrorKind where
  | romTooLarge
  | romIoError
  | stackOverflow
  | stackUnderflow
  | illegalOpcode
  | hostAdapterFailure
deriving DecidableEq, Repr

/-- The three kinds a step of the core can raise (R31, R190). -/
inductive FaultKind where
  /-- A word that matches no instruction was fetched (R191). -/
  | illegalOpcode
  /-- `2nnn` with SP = 16 (R192). -/
  | stackOverflow
  /-- `00EE` with SP = 0 (R193). -/
  | stackUnderflow
deriving DecidableEq, Repr

/-- `RUN` (R31). -/
inductive RunStatus where
  | running
  /-- Latched by a fatal error: its kind, the PC of the faulting instruction and its word (R195). -/
  | halted (kind : FaultKind) (pc op : Word)
  /-- Latched when the shutdown signal is seen between frames (R215). -/
  | stopped
deriving DecidableEq, Repr

/-- Memory: the bytes that differ from what an unlisted address reads as, by rising address (R30, R50). The form is
`Memory.wf`, the reading `Memory.read`, both in Machine/Ops.lean. -/
abbrev Memory := List Host.Cell

/-- The display buffer (R29): 32 rows; bit `x` of row `y` is the cell `FB[x][y]`, 1 = lit. -/
abbrev Display := Vector (BitVec 64) 32

/-- The environment's inputs (R34, R219): the MODEL's fields, not the spec's (log 7, 8, 9). A statement about every state is
a statement about every input. -/
structure Env where
  /-- Answers of `poll()` already decided, next first; after them the free value `Config.keypadWord polls`. -/
  keyWords : List (BitVec 16)
  /-- How many polls have been answered. -/
  polls : Nat
  /-- Answers of `next_byte()` already decided, next first; after them the free value `Config.randomByte draws`. -/
  rndBytes : List Byte
  /-- How many random bytes have been consumed. -/
  draws : Nat
  /-- How many frames still begin before the shutdown signal is seen raised; `none`: it is not raised. -/
  shutdownIn : Option Nat
deriving DecidableEq, Repr

/-- The state of the machine. -/
structure State where
  /-- `V[0..15]` (R20), VF = V[15] (R21). -/
  v : Vector Byte 16
  /-- `I` (R22). -/
  i : Word
  /-- `PC` (R23). -/
  pc : Word
  /-- `SP`, 0..16: the next free slot (R24). -/
  sp : Fin 17
  /-- `Stack[0..15]` (R25). -/
  stack : Vector Word 16
  /-- `DT` (R26). -/
  dt : Byte
  /-- `ST` (R27). -/
  st : Byte
  /-- `K`, the keypad snapshot of the frame: bit `k` is key `k`, 1 = pressed (R28). -/
  keys : BitVec 16
  /-- `FB` (R29). -/
  fb : Display
  /-- `M` (R30). -/
  mem : Memory
  /-- `RUN` (R31), the output port `status` (R219). -/
  run : RunStatus
  /-- `PHASE` (R33): the steps taken in the current frame. -/
  phase : Nat
  /-- The output port `frame_out` (R219): what the last `present` handed over (R216); no value before the first. -/
  frameOut : Option Display
  /-- The output port `tone_active` (R219): the last answer of the audio gate (R206); no value before the first. -/
  toneActive : Option Bool
  /-- The inputs (the model's own field). -/
  env : Env
  /-- The parameters of the machine; no step writes them. -/
  cfg : Config
deriving DecidableEq, Repr

/-- The faults a step can answer. -/
inductive Fault where
  /-- Raised by `step` on a machine whose `RUN` is already Halted: no step is taken and no state changes until reset (R31,
  R196); the fault hands over the record. SAFE (log 10): the model stops where the hardware does nothing more. -/
  | halted (kind : FaultKind) (pc op : Word)
deriving DecidableEq, Repr

/-- The refusals. -/
inductive Refusal where
  /-- An instruction without a meaning; no arm of `exec` answers it. SAFE. -/
  | notModelled (mnemonic : String)
  /-- Raised by `Fx1E` under `QUIRK_ADDI_SETS_VF` = true, whose meaning the document does not settle (U3: refuse any value
  but false). SAFE (log 14). -/
  | quirkAddISetsVF
  /-- Raised by `Fx0A` under `QUIRK_KEYWAIT_ON_RELEASE` = true (U4: refuse any value but false). SAFE (log 14). -/
  | quirkKeyWaitOnRelease
  /-- Raised by `step` when `STEPS_PER_FRAME` is 0 (R6, D15: refuse N = 0). SAFE (log 22). -/
  | zeroStepsPerFrame
  /-- Raised by `boot` for an image of more than 3584 bytes: `RomTooLarge` (R232). SAFE: no machine state exists. -/
  | romTooLarge
  /-- Raised by `boot` for parameters outside R6, R7, R8 (D15, D16). SAFE. -/
  | unsupportedConfig
deriving DecidableEq, Repr

/-- An environment that has decided nothing yet: every keypad word and random byte is a free value; no shutdown is
raised (DESIGN CHOICE, log 7, 8, 9). -/
def Env.undecided : Env where
  keyWords := []
  polls := 0
  rndBytes := []
  draws := 0
  shutdownIn := none

/-- The state after reset of the standard machine with an empty ROM image (R37, R230; log 5). `boot` in Machine/Boot.lean is
reset with an image. -/
def State.reset : State where
  v := Vector.replicate 16 0
  i := 0
  pc := 0x0200
  sp := 0
  stack := Vector.replicate 16 0
  dt := 0
  st := 0
  keys := 0
  fb := Vector.replicate 32 0
  mem := []
  run := .running
  phase := 0
  frameOut := none
  toneActive := none
  env := Env.undecided
  cfg := Config.standard

end Sys2Proof.Machine
end

