-- ==== Sys2Proof/Machine/Ops.lean ====
section
/-! DEFINITION. The named operations over memory and registers that the meanings share: reads and writes (R12), the PC
policies (R91), the return stack (R25), fetch (R54), raising a fatal error (R195), the inputs (R211, R221). -/

namespace Sys2Proof.Machine

/-! ### Memory (R50, R51) -/

/-- What an address that is not listed reads as: the reset contents without an image, the font of R32 at 0x000 to 0x04F
and 0 elsewhere (R37; log 4). -/
def Memory.background (a : Nat) : Byte := fontTable[a]?.getD 0

/-- The byte at an address below 4096. -/
def Memory.read : Memory → Nat → Byte
  | [], a => Memory.background a
  | (k, b) :: m, a => if k = a then b else Memory.read m a

/-- The list with one more cell at its head, unless it holds what an unlisted address reads as. -/
def Memory.cons (a : Nat) (b : Byte) (m : Memory) : Memory :=
  if b = Memory.background a then m else (a, b) :: m

/-- Memory with the byte at `a` replaced; the canonical form is kept (Laws/Memory.lean). -/
def Memory.write : Memory → Nat → Byte → Memory
  | [], a, b => Memory.cons a b []
  | (k, c) :: m, a, b =>
    if a < k then Memory.cons a b ((k, c) :: m)
    else if a = k then Memory.cons a b m
    else (k, c) :: Memory.write m a b

/-- The canonical form, above an address: addresses rise strictly, lie below 4096, and no cell holds what an unlisted
address reads as. -/
def Memory.wfFrom : Nat → Memory → Bool
  | _, [] => true
  | lo, (k, b) :: m =>
    decide (lo ≤ k) && decide (k < memSize) && decide (b ≠ Memory.background k) && Memory.wfFrom (k + 1) m

/-- The canonical form of memory. -/
def Memory.wf (m : Memory) : Bool := Memory.wfFrom 0 m

/-- `MemRead(a, 1)` (R12, R51): the address is masked to 12 bits. -/
def State.memRead (s : State) (a : Nat) : Byte := s.mem.read (a % memSize)

/-- `MemWrite(a, 1, b)` (R12, R51). -/
def State.memWrite (s : State) (a : Nat) (b : Byte) : State := { s with mem := s.mem.write (a % memSize) b }

/-- Bytes written from an address upward, one by one in ascending order (R56), each address masked (R51). -/
def State.memWriteAll (s : State) (a : Nat) : List Byte → State
  | [] => s
  | b :: bs => (s.memWrite a b).memWriteAll (a + 1) bs

/-- `op = MemRead(PC, 2)`: two byte reads, big-endian (R54). -/
def State.fetch (s : State) : Word := wordOfBytes (s.memRead s.pc.toNat) (s.memRead (s.pc.toNat + 1))

/-! ### Registers (R12, R20 to R27) -/

/-- `V[x]`. -/
def State.V (s : State) (x : Reg) : Byte := s.v[x.val]

/-- `V[x] <- b`. -/
def State.setV (s : State) (x : Reg) (b : Byte) : State := { s with v := s.v.set x.val b }

/-- `VF` (R21). -/
abbrev State.VF (s : State) : Byte := s.V regF

/-- `I <- w`. -/
def State.setI (s : State) (w : Word) : State := { s with i := w }

/-- `PC <- w` (the policy `set`). -/
def State.setPC (s : State) (w : Word) : State := { s with pc := w }

/-- `DT <- b`. -/
def State.setDT (s : State) (b : Byte) : State := { s with dt := b }

/-- `ST <- b`. -/
def State.setST (s : State) (b : Byte) : State := { s with st := b }

/-- `FB` replaced. -/
def State.setFB (s : State) (d : Display) : State := { s with fb := d }

/-! ### The PC policies (R91); PC arithmetic is modulo 65536 (R23) -/

/-- `advance`: PC + 2. -/
def State.advance (s : State) : State := s.setPC (s.pc + 2)

/-- `skip`: PC + 4. The skipped word is not examined. -/
def State.skip (s : State) : State := s.setPC (s.pc + 4)

/-- `skip` if the condition holds, else `advance`. -/
def State.skipIf (s : State) (c : Bool) : State := if c then s.skip else s.advance

/-! ### The return stack (R24, R25) -/

/-- `Stack[SP] <- w; SP <- SP + 1`; none when SP = 16. -/
def State.push (s : State) (w : Word) : Option State :=
  if h : s.sp.val < stackDepth then
    some { s with stack := s.stack.set s.sp.val w h, sp := ⟨s.sp.val + 1, Nat.succ_lt_succ h⟩ }
  else none

/-- `Stack[SP - 1]`, and the state with `SP <- SP - 1`; the entry keeps its value (R25). None when SP = 0. -/
def State.pop (s : State) : Option (Word × State) :=
  if h : 0 < s.sp.val then
    some (s.stack[s.sp.val - 1]'(by have := s.sp.isLt; omega),
      { s with sp := ⟨s.sp.val - 1, Nat.lt_of_le_of_lt (Nat.sub_le _ _) s.sp.isLt⟩ })
  else none

/-! ### Fatal errors (R190 to R196) -/

/-- The kind as the document's table names it. -/
def FaultKind.error : FaultKind → ErrorKind
  | .illegalOpcode => .illegalOpcode
  | .stackOverflow => .stackOverflow
  | .stackUnderflow => .stackUnderflow

/-- The numeric code of an error kind: its position in the table (R190, D11). -/
def ErrorKind.code : ErrorKind → Nat
  | .romTooLarge => 1
  | .romIoError => 2
  | .stackOverflow => 3
  | .stackUnderflow => 4
  | .illegalOpcode => 5
  | .hostAdapterFailure => 6

/-- `raise kind(PC, op)`, the machine's fault entry: `RUN <- Halted(kind, PC, op)` and no other state written (R195).
Nothing returns from it (R196). -/
def State.raise (s : State) (kind : FaultKind) (op : Word) : State := { s with run := .halted kind s.pc op }

/-! ### The inputs (R34, R219) -/

/-- The word the next `poll()` answers: an injected one, else a free value (R211; log 7). -/
def Env.keypad (e : Env) : BitVec 16 := e.keyWords.head?.getD (Config.keypadWord e.polls)

/-- The environment after a `poll()`. -/
def Env.afterPoll (e : Env) : Env := { e with keyWords := e.keyWords.tail, polls := e.polls + 1 }

/-- The byte the next `next_byte()` answers: an injected one, else a free value (R221; log 8). -/
def Env.random (e : Env) : Byte := e.rndBytes.head?.getD (Config.randomByte e.draws)

/-- The environment after a `next_byte()`. -/
def Env.afterDraw (e : Env) : Env := { e with rndBytes := e.rndBytes.tail, draws := e.draws + 1 }

/-- The state after `RandomByte()`: one byte consumed (R131, R221). -/
def State.draw (s : State) : State := { s with env := s.env.afterDraw }

/-! ### The display (R29) -/

/-- `FB[cx][cy]`; false off the screen. -/
def Display.get (d : Display) (cx cy : Nat) : Bool :=
  if h : cy < dispH then d[cy].getLsbD cx else false

/-- `FB[cx][cy] <- FB[cx][cy] ^ p` for a cell on the screen. -/
def Display.xorCell (d : Display) (cx cy : Nat) (p : Bool) : Display :=
  if h : cy < dispH then d.set cy (d[cy] ^^^ (BitVec.ofBool p).setWidth 64 <<< cx) else d

/-- All 2048 cells 0. -/
def Display.blank : Display := Vector.replicate 32 0

end Sys2Proof.Machine
end

