-- ==== Sys2Proof/Machine/Operands.lean ====
section
/-! DEFINITION. The operand forms (spec/30_encoding.md R73, spec/43_index_memory.md): what an instruction reads from its fields. -/

namespace Sys2Proof.Machine

/-- `zext_16(nnn)`: an address operand (R73). -/
def addrOperand (nnn : Addr) : Word := nnn.setWidth 16

/-- The address of byte `k` of a memory operand, before the mask of the access: `I + k` (R51, R56). The machine has no other
addressing mode. -/
def State.ea (s : State) (k : Nat) : Nat := s.i.toNat + k

/-- The register numbers 0 to `x`, ascending: the block of `Fx55` and `Fx65` (R144, R145). -/
def regsUpTo (x : Reg) : List Reg := (List.finRange 16).filter (· ≤ x)

/-- The key that a register selects: its low nibble (R173, R174). -/
def keyIndex (b : Byte) : Nat := b.toNat % 16

/-- `Key[k] == 1` in the frame's snapshot (R28). -/
def State.keyDown (s : State) (k : Nat) : Bool := s.keys.getLsbD k

/-- The least index of a pressed key, if any key is pressed (R175). -/
def State.lowestKey (s : State) : Option (Fin 16) := (List.finRange 16).find? (fun k => s.keyDown k.val)

/-- The address of the glyph a register selects: 5 times its low nibble (R142). -/
def glyphAddr (b : Byte) : Word := (b &&& 0xF).setWidth 16 * 5

/-- The starting column, `V[x] mod 64` (R161). -/
def startColumn (b : Byte) : Nat := b.toNat % dispW

/-- The starting row, `V[y] mod 32` (R161). -/
def startRow (b : Byte) : Nat := b.toNat % dispH

/-- The pixel of column `col` of a sprite byte: bit 7 is the leftmost (R161). -/
def spritePixel (b : Byte) (col : Nat) : Bool := b.getLsbD (7 - col)

/-- Hundreds, tens and ones of a byte (R143). -/
def bcdDigits (b : Byte) : List Byte :=
  [BitVec.ofNat 8 (b.toNat / 100), BitVec.ofNat 8 (b.toNat / 10 % 10), BitVec.ofNat 8 (b.toNat % 10)]

/-- The source of a shift: `V[x]`, or `V[y]` under `QUIRK_SHIFT_USES_VY` (R128, R130, U1). -/
def State.shiftSource (s : State) (x y : Reg) : Byte := if s.cfg.shiftUsesVy then s.V y else s.V x

/-- The target of `Bnnn`: `nnn + V[0]`, at most 0x10FE, stored unreduced (R107). -/
def State.offsetTarget (s : State) (nnn : Addr) : Word := addrOperand nnn + (s.V 0).setWidth 16

end Sys2Proof.Machine
end

