-- ==== Sys2Proof/Machine/Flags.lean ====
section
/-! DEFINITION. The flag computations (spec/10_state.md R21, spec/42_load_alu.md R132) and the order of the flag write (R133). -/

namespace Sys2Proof.Machine

/-- A flag as VF holds it: 0 or 1 (R21). -/
def flagByte (c : Bool) : Byte := if c then 1 else 0

/-- Carry: `a + b > 0xFF` (R126). -/
def carryOut (a b : Byte) : Bool := decide (0xFF < a.toNat + b.toNat)

/-- NOT borrow of `a - b`: `a >= b`, equal operands included (R127, R129, R132; conflict C7). -/
def noBorrow (a b : Byte) : Bool := decide (b.toNat ≤ a.toNat)

/-- The bit a right shift moves out: bit 0 (R128). -/
def shiftOutRight (a : Byte) : Bool := a.getLsbD 0

/-- The bit a left shift moves out: bit 7 (R130). -/
def shiftOutLeft (a : Byte) : Bool := a.getLsbD 7

/-- `V[x] <- result`, then `VF <- flag`, in this order (R133): with x = 15 the flag is what remains. -/
def State.setResultFlag (s : State) (x : Reg) (result : Byte) (flag : Bool) : State :=
  (s.setV x result).setV regF (flagByte flag)

/-- A logic result: `V[x] <- result`, and under `QUIRK_LOGIC_RESETS_VF` then `VF <- 0` (R123 to R125, U5). -/
def State.setLogicResult (s : State) (x : Reg) (result : Byte) : State :=
  if s.cfg.logicResetsVF then (s.setV x result).setV regF 0 else s.setV x result

end Sys2Proof.Machine
end

