-- ==== Sys2Proof/Machine/ControlFlow.lean ====
section
/-! DEFINITION. Control transfer (spec/41_control_flow.md) and the illegal row `0nnn` (spec/30_encoding.md R77). -/

namespace Sys2Proof.Machine

open Host (Outcome)

/-- `00EE` RET (R100): SP = 0 raises `StackUnderflow`; else `PC <- Stack[SP - 1]; SP <- SP - 1`, policy set (conflict C2: the popped
value is the address after the CALL). -/
def execRet (s : State) : Outcome State Fault Refusal :=
  .next (match s.pop with
    | none => s.raise .stackUnderflow (encode .ret)
    | some (target, t) => t.setPC target)

/-- `1nnn` JP nnn (R101): policy set. -/
def execJp (nnn : Addr) (s : State) : Outcome State Fault Refusal :=
  .next (s.setPC (addrOperand nnn))

/-- `2nnn` CALL nnn (R102): SP = 16 raises `StackOverflow`; else PC + 2 is pushed and `PC <- nnn`, policy set. -/
def execCall (nnn : Addr) (s : State) : Outcome State Fault Refusal :=
  .next (match s.push (s.pc + 2) with
    | none => s.raise .stackOverflow (encode (.call nnn))
    | some t => t.setPC (addrOperand nnn))

/-- `3xkk` SE Vx, kk (R103). -/
def execSeImm (x : Reg) (kk : Byte) (s : State) : Outcome State Fault Refusal :=
  .next (s.skipIf (s.V x == kk))

/-- `4xkk` SNE Vx, kk (R104). -/
def execSneImm (x : Reg) (kk : Byte) (s : State) : Outcome State Fault Refusal :=
  .next (s.skipIf (s.V x != kk))

/-- `5xy0` SE Vx, Vy (R105). -/
def execSeReg (x y : Reg) (s : State) : Outcome State Fault Refusal :=
  .next (s.skipIf (s.V x == s.V y))

/-- `9xy0` SNE Vx, Vy (R106). -/
def execSneReg (x y : Reg) (s : State) : Outcome State Fault Refusal :=
  .next (s.skipIf (s.V x != s.V y))

/-- `Bnnn` JP V0, nnn (R107): policy set. -/
def execJpV0 (nnn : Addr) (s : State) : Outcome State Fault Refusal :=
  .next (s.setPC (s.offsetTarget nnn))

/-- A `0nnn` word that is neither CLS nor RET (R77): the fatal error `IllegalOpcode`, with PC and the word, and nothing else (R92, R191). -/
def execIllegal0nnn (nnn : Addr) (s : State) : Outcome State Fault Refusal :=
  .next (s.raise .illegalOpcode (encode (.illegal0nnn nnn)))

end Sys2Proof.Machine
end

