-- ==== Sys2Proof/Machine/DisplayOps.lean ====
section
/-! DEFINITION. The display instructions (spec/44_display.md); both advance, neither faults. -/

namespace Sys2Proof.Machine

open Host (Outcome)

/-- `00E0` CLS (R160). -/
def execCls (s : State) : Outcome State Fault Refusal :=
  .next (s.setFB Display.blank).advance

/-- One pixel of a sprite (R161): clipped off the screen; on it, a lit cell under a 1 pixel is a collision, and the cell is
XORed with the pixel. The pair is the display and the collision seen so far. -/
def drawPixel (acc : Display × Bool) (cx cy : Nat) (pixel : Bool) : Display × Bool :=
  if dispW ≤ cx ∨ dispH ≤ cy then acc
  else (acc.1.xorCell cx cy pixel, acc.2 || (acc.1.get cx cy && pixel))

/-- One row of a sprite: eight pixels from column `sx` of row `cy` (R161). -/
def drawRow (acc : Display × Bool) (sx cy : Nat) (b : Byte) : Display × Bool :=
  (List.range 8).foldl (fun acc col => drawPixel acc (sx + col) cy (spritePixel b col)) acc

/-- The `n` rows of the sprite at I, drawn from (`sx`, `sy`) (R161). -/
def State.drawSprite (s : State) (sx sy n : Nat) : Display × Bool :=
  (List.range n).foldl (fun acc row => drawRow acc sx (sy + row) (s.memRead (s.ea row))) (s.fb, false)

/-- `Dxyn` DRW Vx, Vy, n (R161): the coordinates are read before VF is written; VF is the collision. -/
def execDrw (x y : Reg) (n : Fin 16) (s : State) : Outcome State Fault Refusal :=
  let d := s.drawSprite (startColumn (s.V x)) (startRow (s.V y)) n.val
  .next ((s.setFB d.1).setV regF (flagByte d.2)).advance

end Sys2Proof.Machine
end

