-- ==== Sys2Proof/Machine/IndexMemory.lean ====
section
/-! DEFINITION. The index register and memory transfer (spec/43_index_memory.md); all advance, none faults. -/

namespace Sys2Proof.Machine

open Host (Outcome)

/-- Under `QUIRK_LOADSTORE_INC_I`, `I <- (I + x + 1) mod 65536` after a block transfer; else I is unchanged (R144, R145, U2). -/
def State.afterBlock (s : State) (x : Reg) : State :=
  if s.cfg.loadStoreIncI then s.setI (s.i + BitVec.ofNat 16 (x.val + 1)) else s

/-- `Annn` LD I, nnn (R140). -/
def execLdI (nnn : Addr) (s : State) : Outcome State Fault Refusal :=
  .next (s.setI (addrOperand nnn)).advance

/-- `Fx1E` ADD I, Vx (R141): modulo 65536, no flag. Under `QUIRK_ADDI_SETS_VF` the document settles no meaning and the model
refuses (U3, D16). -/
def execAddI (x : Reg) (s : State) : Outcome State Fault Refusal :=
  if s.cfg.addISetsVF then .refused .quirkAddISetsVF
  else .next (s.setI (s.i + (s.V x).setWidth 16)).advance

/-- `Fx29` LD F, Vx (R142). -/
def execLdF (x : Reg) (s : State) : Outcome State Fault Refusal :=
  .next (s.setI (glyphAddr (s.V x))).advance

/-- `Fx33` LD B, Vx (R143): hundreds, tens, ones at I, I + 1, I + 2. -/
def execLdB (x : Reg) (s : State) : Outcome State Fault Refusal :=
  .next (s.memWriteAll (s.ea 0) (bcdDigits (s.V x))).advance

/-- `Fx55` LD [I], Vx (R144): V0 to Vx at I upward. -/
def execLdMemVx (x : Reg) (s : State) : Outcome State Fault Refusal :=
  .next ((s.memWriteAll (s.ea 0) ((regsUpTo x).map s.V)).afterBlock x).advance

/-- The loop of `Fx65`: each register of the list from the byte at I plus its number (R145). -/
def State.loadRegs (s : State) (rs : List Reg) : State :=
  rs.foldl (fun t r => t.setV r (t.memRead (t.ea r.val))) s

/-- `Fx65` LD Vx, [I] (R145): V0 to Vx from I upward. -/
def execLdVxMem (x : Reg) (s : State) : Outcome State Fault Refusal :=
  .next ((s.loadRegs (regsUpTo x)).afterBlock x).advance

end Sys2Proof.Machine
end

