-- ==== Sys2Proof/Machine/LoadAlu.lean ====
section
/-! DEFINITION. Register loads, arithmetic, logic, shifts and RND (spec/42_load_alu.md); all advance, none faults. -/

namespace Sys2Proof.Machine

open Host (Outcome)

/-- `6xkk` LD Vx, kk (R120). -/
def execLdImm (x : Reg) (kk : Byte) (s : State) : Outcome State Fault Refusal :=
  .next (s.setV x kk).advance

/-- `7xkk` ADD Vx, kk (R121): modulo 256, no flag. -/
def execAddImm (x : Reg) (kk : Byte) (s : State) : Outcome State Fault Refusal :=
  .next (s.setV x (s.V x + kk)).advance

/-- `8xy0` LD Vx, Vy (R122). -/
def execLdReg (x y : Reg) (s : State) : Outcome State Fault Refusal :=
  .next (s.setV x (s.V y)).advance

/-- `8xy1` OR Vx, Vy (R123). -/
def execOrReg (x y : Reg) (s : State) : Outcome State Fault Refusal :=
  .next (s.setLogicResult x (s.V x ||| s.V y)).advance

/-- `8xy2` AND Vx, Vy (R124). -/
def execAndReg (x y : Reg) (s : State) : Outcome State Fault Refusal :=
  .next (s.setLogicResult x (s.V x &&& s.V y)).advance

/-- `8xy3` XOR Vx, Vy (R125). -/
def execXorReg (x y : Reg) (s : State) : Outcome State Fault Refusal :=
  .next (s.setLogicResult x (s.V x ^^^ s.V y)).advance

/-- `8xy4` ADD Vx, Vy (R126): the sum modulo 256, then VF = carry. -/
def execAddReg (x y : Reg) (s : State) : Outcome State Fault Refusal :=
  .next (s.setResultFlag x (s.V x + s.V y) (carryOut (s.V x) (s.V y))).advance

/-- `8xy5` SUB Vx, Vy (R127): Vx - Vy modulo 256, then VF = NOT borrow. -/
def execSubReg (x y : Reg) (s : State) : Outcome State Fault Refusal :=
  .next (s.setResultFlag x (s.V x - s.V y) (noBorrow (s.V x) (s.V y))).advance

/-- `8xy6` SHR Vx (R128): the source shifted right by one, then VF = the bit shifted out. -/
def execShr (x y : Reg) (s : State) : Outcome State Fault Refusal :=
  .next (s.setResultFlag x (s.shiftSource x y >>> 1) (shiftOutRight (s.shiftSource x y))).advance

/-- `8xy7` SUBN Vx, Vy (R129): Vy - Vx modulo 256, then VF = NOT borrow. -/
def execSubnReg (x y : Reg) (s : State) : Outcome State Fault Refusal :=
  .next (s.setResultFlag x (s.V y - s.V x) (noBorrow (s.V y) (s.V x))).advance

/-- `8xyE` SHL Vx (R130): the source shifted left by one modulo 256, then VF = the bit shifted out. -/
def execShl (x y : Reg) (s : State) : Outcome State Fault Refusal :=
  .next (s.setResultFlag x (s.shiftSource x y <<< 1) (shiftOutLeft (s.shiftSource x y))).advance

/-- `Cxkk` RND Vx, kk (R131): one random byte is consumed; `V[x] <- r & kk`. -/
def execRnd (x : Reg) (kk : Byte) (s : State) : Outcome State Fault Refusal :=
  .next (s.draw.setV x (s.env.random &&& kk)).advance

end Sys2Proof.Machine
end

