-- ==== Sys2Proof/Machine/TimerKeypad.lean ====
section
/-! DEFINITION. The timer and keypad instructions (spec/45_timer_keypad.md); none faults. -/

namespace Sys2Proof.Machine

open Host (Outcome)

/-- `Fx07` LD Vx, DT (R170). -/
def execLdVxDT (x : Reg) (s : State) : Outcome State Fault Refusal :=
  .next (s.setV x s.dt).advance

/-- `Fx15` LD DT, Vx (R171). -/
def execLdDTVx (x : Reg) (s : State) : Outcome State Fault Refusal :=
  .next (s.setDT (s.V x)).advance

/-- `Fx18` LD ST, Vx (R172). -/
def execLdSTVx (x : Reg) (s : State) : Outcome State Fault Refusal :=
  .next (s.setST (s.V x)).advance

/-- `Ex9E` SKP Vx (R173). -/
def execSkp (x : Reg) (s : State) : Outcome State Fault Refusal :=
  .next (s.skipIf (s.keyDown (keyIndex (s.V x))))

/-- `ExA1` SKNP Vx (R174). -/
def execSknp (x : Reg) (s : State) : Outcome State Fault Refusal :=
  .next (s.skipIf (!s.keyDown (keyIndex (s.V x))))

/-- `Fx0A` LD Vx, K (R175): the lowest pressed key, policy advance; no key pressed: policy wait, nothing written. Under
`QUIRK_KEYWAIT_ON_RELEASE` the document settles no meaning and the model refuses (U4, D16). -/
def execLdVxK (x : Reg) (s : State) : Outcome State Fault Refusal :=
  if s.cfg.keyWaitOnRelease then .refused .quirkKeyWaitOnRelease
  else .next (match s.lowestKey with
    | some k => (s.setV x (BitVec.ofNat 8 k.val)).advance
    | none => s)

end Sys2Proof.Machine
end

