-- ==== Sys2Proof/Machine/Frame.lean ====
section
/-! DEFINITION. The frame around the steps (spec/60_exceptions.md R205 to R217): what happens before the first step of a frame
and after its last. Line 6, the sleep, has no effect on the state (R217). -/

namespace Sys2Proof.Machine

/-- Line 1 of the frame: all 16 bits of K replaced by the answer of `poll()` (R211). -/
def State.poll (s : State) : State := { s with keys := s.env.keypad, env := s.env.afterPoll }

/-- Lines 0 and 1: a raised shutdown signal stops the machine and nothing else changes (R215); else the keypad is polled. -/
def State.beginFrame (s : State) : State :=
  match s.env.shutdownIn with
  | some 0 => { s with run := .stopped }
  | some (n + 1) => { s.poll with env := { s.poll.env with shutdownIn := some n } }
  | none => s.poll

/-- The start of a step: lines 0 and 1 when a frame is about to begin (PHASE = 0), nothing inside a frame (R210). -/
def State.beginStep (s : State) : State := if s.phase = 0 then s.beginFrame else s

/-- A timer at a frame end: down by 1 while above 0 (R205). -/
def tick (t : Byte) : Byte := if t = 0 then 0 else t - 1

/-- Line 3: both timers (R205). -/
def State.tickTimers (s : State) : State := { s with dt := tick s.dt, st := tick s.st }

/-- Line 4: `present(FB)` (R216). -/
def State.present (s : State) : State := { s with frameOut := some s.fb }

/-- Line 5: `set_tone_active(ST > 0)` (R206). -/
def State.updateGate (s : State) : State := { s with toneActive := some (decide (0 < s.st.toNat)) }

/-- Lines 3, 4, 5, in this order, after which a frame is about to begin (R210). -/
def State.endFrame (s : State) : State := { s.tickTimers.present.updateGate with phase := 0 }

/-- The end of a step: one more step of the frame is taken, and the N-th ends the frame (R210, R212). A step that raised
abandons the frame where it is (R195, R213). -/
def State.endStep (s : State) : State :=
  if s.run = .running then
    if s.phase + 1 < s.cfg.stepsPerFrame then { s with phase := s.phase + 1 } else s.endFrame
  else s

end Sys2Proof.Machine
end

