-- ==== Sys2Proof/Machine/Cycle.lean ====
section
/-! DEFINITION. The instruction step (spec/40_step_cycle.md R90) and the step of the machine: an instruction step with the frame
actions that fall before or after it (spec/60_exceptions.md R210; log 6). -/

namespace Sys2Proof.Machine

/-- Fetch, decode, execute (R90). A word that is `Unknown` raises `IllegalOpcode` with PC and the word (R92). -/
def State.instrStep (s : State) : Host.Outcome State Fault Refusal :=
  match decodeWord s.fetch with
  | .ok i => exec i s
  | .error _ => .next (s.raise .illegalOpcode s.fetch)

/-- A step of a running machine: lines 0 and 1 if a frame is about to begin; one instruction step; lines 3 to 5 if it was the
N-th of the frame. Where line 0 stops the machine no instruction runs. -/
def State.runningStep (s : State) : Host.Outcome State Fault Refusal :=
  if s.beginStep.run = .running then
    match s.beginStep.instrStep with
    | .next t => .next t.endStep
    | .fault f => .fault f
    | .refused r => .refused r
  else .next s.beginStep

/-- The step of the machine. Halted: no step is taken and the record is handed over (R31, R196; log 10). Stopped: nothing
changes (R215). N = 0 is refused (R6; log 22). -/
def State.cycle (s : State) : Host.Outcome State Fault Refusal :=
  match s.run with
  | .halted kind pc op => .fault (.halted kind pc op)
  | .stopped => .next s
  | .running => if s.cfg.stepsPerFrame = 0 then .refused .zeroStepsPerFrame else s.runningStep

/-- A state whose very next step fetches and runs the given word: the word at PC and PC + 1, big-endian (R54), the machine
running, and no shutdown at the boundary this step may stand at. -/
def State.placeWord (s : State) (op : Word) : State :=
  let t := s.memWriteAll s.pc.toNat (bytesOfWord op)
  { t with
    run := .running
    env := { t.env with shutdownIn := if t.env.shutdownIn = some 0 then none else t.env.shutdownIn } }

end Sys2Proof.Machine
end

