-- ==== Sys2Proof/Machine/Step.lean ====
section
/-! DEFINITION. The step, and a word placed where it fetches (log 5). -/

namespace Sys2Proof.Machine

/-- One step of the machine: `State.cycle`. -/
def step (s : State) : Host.Outcome State Fault Refusal := s.cycle

/-- `s` with the instruction whose bits are `w` (numbered as spec/opcode_table.json numbers them) stored where the next step
fetches it: the model's stand-in for a ROM image that holds it at the entry point (log 5). -/
def State.withFetchWord (s : State) (nbits w : Nat) : State := s.placeWord (tableWord nbits w)

end Sys2Proof.Machine
end

