-- ==== Sys2Proof/Machine/Boot.lean ====
section
/-! DEFINITION. Reset with a ROM image (spec/70_reset_and_hazards.md R230 to R234). -/

namespace Sys2Proof.Machine

/-- The state of R37 for the given parameters, before font and image are in memory. -/
def State.blank (cfg : Config) (env : Env) : State := { State.reset with mem := [], env := env, cfg := cfg }

/-- `reset(rom)` (R230): an image of more than 3584 bytes is refused with `RomTooLarge` (R232), parameters outside R6, R7 and R8
are refused (D15, D16); else the font is at 0x000 upward and the image at 0x200 upward (R231), and everything else is
as in R37. -/
def boot (cfg : Config) (env : Env) (rom : List Byte) : Host.Outcome State Fault Refusal :=
  if romMax < rom.length then .refused .romTooLarge
  else if cfg.supported then
    .next (((State.blank cfg env).memWriteAll 0 cfg.font.toList).memWriteAll progBase rom)
  else .refused .unsupportedConfig

end Sys2Proof.Machine
end

