-- ==== Sys2Proof/Safety.lean ====
section
/-! DEFINITION. What counts as a good state and a safe run, and the terms the statements use: the results an instruction can
have, the pixel a sprite puts on a cell, idleness (spec/60_exceptions.md R225), counts along a run. -/

namespace Sys2Proof.Machine

/-! ### Good states -/

/-- What a fault record says is so (R191 to R195): the PC is the machine's PC, the word is the one fetched there, and the kind's
cause holds. -/
def State.recordTrue (s : State) : Prop :=
  match s.run with
  | .halted kind pc op =>
    pc = s.pc ∧ op = s.fetch ∧
      match kind with
      | .illegalOpcode => legalWord op = false
      | .stackOverflow => fieldC op = 2 ∧ s.sp = 16
      | .stackUnderflow => op = 0x00EE ∧ s.sp = 0
  | .running => True
  | .stopped => s.phase = 0

/-- The invariant of the machine. -/
structure State.Inv (s : State) : Prop where
  /-- Memory is in its canonical form, every address in it below 4096 (R36 (1)). -/
  mem : s.mem.wf = true
  /-- The parameters are ones the machine runs with (R6, R7, R8). -/
  cfg : s.cfg.supported = true
  /-- PHASE counts the steps of a frame that has not ended (R33; log 6). -/
  phase : s.phase < s.cfg.stepsPerFrame
  /-- The fault record, if there is one, is true; a stop lies between frames (R195, R215). -/
  record : s.recordTrue
  /-- The two outputs of a frame end are driven together (R210, R230). -/
  outputs : s.frameOut.isSome = s.toneActive.isSome

/-- A machine that a fatal error has stopped: a failure of the run, never a good final state (R31, R196). -/
def State.failed (s : State) : Bool :=
  match s.run with
  | .halted _ _ _ => true
  | .running => false
  | .stopped => false

/-- A run of `k` steps that meets no fatal error. -/
def safeRun (k : Nat) (s : State) : Prop :=
  ∃ t, Host.Core.run core k s = .next t ∧ t.failed = false

/-! ### Results of an instruction -/

/-- `t`'s PC is `s`'s PC plus `k`, modulo 65536 (R91; the modulus is the spec's decision D4, log 16). -/
def PcPlus (s t : State) (k : Nat) : Prop := t.pc.toNat = (s.pc.toNat + k) % 65536

/-- From `s` the instruction completes, leaves `n` in V[x] and every other register as it was, advances PC by 2, and changes
nothing else; every byte of memory reads as before. -/
def RegResult (i : Instr) (s : State) (x : Reg) (n : Nat) : Prop :=
  ∃ t, exec i s = .next t ∧ (t.V x).toNat = n ∧ (∀ r, r ≠ x → t.V r = s.V r) ∧ PcPlus s t 2 ∧
    t = { s with v := t.v, pc := t.pc } ∧ ∀ a, t.memRead a = s.memRead a

/-- From `s` the instruction completes, leaves `n` in V[x] unless x is 15, the flag in VF, every other register as it was,
advances PC by 2, and changes nothing else; every byte of memory reads as before. -/
def FlagResult (i : Instr) (s : State) (x : Reg) (n flag : Nat) : Prop :=
  ∃ t, exec i s = .next t ∧ (x ≠ 15 → (t.V x).toNat = n) ∧ (t.V 15).toNat = flag ∧
    (∀ r, r ≠ x → r ≠ 15 → t.V r = s.V r) ∧ PcPlus s t 2 ∧
    t = { s with v := t.v, pc := t.pc } ∧ ∀ a, t.memRead a = s.memRead a

/-- From `s` the instruction completes and changes PC alone: plus 4 if the condition holds, else plus 2. -/
def SkipResult (i : Instr) (s : State) (c : Prop) [Decidable c] : Prop :=
  ∃ t, exec i s = .next t ∧ PcPlus s t (if c then 4 else 2) ∧ t = { s with pc := t.pc } ∧
    ∀ a, t.memRead a = s.memRead a

/-! ### Timers -/

/-- What an instruction leaves in DT: V[x] after `Fx15`, else the old value (R26, R171). -/
def State.dtAfter (s : State) : Instr → Byte
  | .ldDTVx x => s.V x
  | _ => s.dt

/-- What an instruction leaves in ST: V[x] after `Fx18`, else the old value (R27, R172). -/
def State.stAfter (s : State) : Instr → Byte
  | .ldSTVx x => s.V x
  | _ => s.st

/-! ### Sprites -/

/-- The pixel that a sprite of `n` rows at I, drawn from column `sx` and row `sy`, puts on the cell (`cx`, `cy`); false where
the sprite does not reach (R161). -/
def State.spriteBit (s : State) (sx sy n cx cy : Nat) : Bool :=
  decide (sx ≤ cx ∧ cx < sx + 8 ∧ sy ≤ cy ∧ cy < sy + n) &&
    (s.memRead (s.ea (cy - sy))).getLsbD (7 - (cx - sx))

/-! ### Idleness (R225) -/

/-- The machine is idle at `a`: running, PC reaches `a`, and the word there is the jump to `a`. -/
def State.idleAt (s : State) (a : Addr) : Prop :=
  s.run = .running ∧ s.pc.setWidth 12 = a ∧ s.fetch = encode (.jp a)

/-! ### Counts along a run -/

/-- The instruction the next step runs, if it runs one. -/
def State.executes (s : State) : Option Instr :=
  if s.run = .running ∧ s.beginStep.run = .running then
    match decodeWord s.fetch with
    | .ok i => some i
    | .error _ => none
  else none

/-- The next step completes a CALL. -/
def State.completesCall (s : State) : Bool :=
  match s.executes with
  | some (.call _) => decide (s.sp.val < 16)
  | _ => false

/-- The next step completes a RET. -/
def State.completesRet (s : State) : Bool :=
  match s.executes with
  | some .ret => decide (0 < s.sp.val)
  | _ => false

/-- In how many of the first `k` states of the run from `s` the condition holds. -/
def tally (p : State → Bool) : Nat → State → Nat
  | 0, _ => 0
  | k + 1, s =>
    (if p s then 1 else 0) +
      match step s with
      | .next t => tally p k t
      | .fault _ => 0
      | .refused _ => 0

end Sys2Proof.Machine
end

