-- ==== Sys2Proof/Certificates/Slice0/Obligations.lean ====
section
/-! DEFINITION. The statements for the provers. Each docstring names the rule of spec/ it formalises. PC sums are modulo 65536
by the spec's decision D4 (log 16); quirk switches other than the default are R7 and 93_implementation_defined.md U1 to U5
(log 1, 14). -/

open Sys2Proof Sys2Proof.Machine

/-! ### Encoding -/

/-- R74, R75: words written out from the patterns of R75 decode to the instructions they stand for. -/
def Obligations.SampleWordsDecode : Prop :=
  decodeWord 0x00E0 = .ok .cls ∧ decodeWord 0x00EE = .ok .ret ∧ decodeWord 0x10E0 = .ok (.jp 0x0E0) ∧
  decodeWord 0x332A = .ok (.seImm 3 0x2A) ∧ decodeWord 0x5120 = .ok (.seReg 1 2) ∧
  decodeWord 0x8AB6 = .ok (.shr 10 11) ∧ decodeWord 0x812E = .ok (.shl 1 2) ∧
  decodeWord 0xA208 = .ok (.ldI 0x208) ∧ decodeWord 0xC10F = .ok (.rnd 1 0x0F) ∧
  decodeWord 0xD015 = .ok (.drw 0 1 5) ∧ decodeWord 0xE09E = .ok (.skp 0) ∧ decodeWord 0xF30A = .ok (.ldVxK 3) ∧
  decodeWord 0xF155 = .ok (.ldMemVx 1) ∧ decodeWord 0x5121 = .error (.unknown 0x5121) ∧
  decodeWord 0x8128 = .error (.unknown 0x8128) ∧ decodeWord 0xF085 = .error (.unknown 0xF085)

/-- R72, R73, R75: for every instruction that stands for a word, with every operand at every value, the decoder reads back
from its word exactly it. -/
def Obligations.DecodeOfEncode : Prop :=
  ∀ i : Instr, i.wellFormed = true → decodeWord (encode i) = .ok i

/-- R74: a word decodes to at most one instruction and that instruction's word is it; no bit of a word is dropped. -/
def Obligations.EncodeOfDecode : Prop :=
  ∀ (op : Word) (i : Instr), decodeWord op = .ok i → i.wellFormed = true ∧ encode i = op

/-- R75: the word is an instruction of a row exactly when `op & mask == match`, for each of the 34 rows. -/
def Obligations.RowDecodesExactlyItsWords : Prop :=
  ∀ (op : Word) (row : Word × Word), row ∈ opcodeMap →
    ((∃ i, decodeWord op = .ok i ∧ i.legal = true ∧ i.opcodeRow = row) ↔ op &&& row.2 = row.1)

/-- R76 (with D1 and D2, log 11 and 18): the words that are no instruction of the machine are exactly those of the table of
R76, by high nibble, low nibble and low byte. -/
def Obligations.IllegalWordsAreTheListedOnes : Prop :=
  ∀ op : Word, legalWord op = false ↔
    (op.toNat / 4096 = 0 ∧ op.toNat ≠ 0x00E0 ∧ op.toNat ≠ 0x00EE) ∨
    (op.toNat / 4096 = 5 ∧ op.toNat % 16 ≠ 0) ∨
    (op.toNat / 4096 = 8 ∧ op.toNat % 16 ∈ [0x8, 0x9, 0xA, 0xB, 0xC, 0xD, 0xF]) ∨
    (op.toNat / 4096 = 9 ∧ op.toNat % 16 ≠ 0) ∨
    (op.toNat / 4096 = 0xE ∧ op.toNat % 256 ∉ [0x9E, 0xA1]) ∨
    (op.toNat / 4096 = 0xF ∧ op.toNat % 256 ∉ [0x07, 0x0A, 0x15, 0x18, 0x1E, 0x29, 0x33, 0x55, 0x65])

/-! ### The step -/

/-- R90, R210 (log 6): where the word at PC decodes to `i` and the frame may begin, a step of a running machine is `exec i` at the
state after the start of the step, with the end of the step after it. -/
def Obligations.StepRunsTheDecodedInstruction : Prop :=
  ∀ (s : State) (i : Instr), s.run = .running → 1 ≤ s.cfg.stepsPerFrame → s.beginStep.run = .running →
    decodeWord s.fetch = .ok i →
    step s = match exec i s.beginStep with
      | .next t => .next t.endStep
      | .fault f => .fault f
      | .refused r => .refused r

/-- R92, R195: a fetched word that decodes to `Unknown` raises `IllegalOpcode` with the PC of the word and the word, and PC is not advanced.
How that is said is the model's: a next state in which RUN alone is latched (log 12, the spec's D9 and D10), built on the state after
the start of the step, so that K and the inputs of a frame that began stay as polled and PHASE stands (log 24 and log 6, DEDUCED). -/
def Obligations.UnknownWordHalts : Prop :=
  ∀ (s : State) (r : Reject), s.run = .running → 1 ≤ s.cfg.stepsPerFrame → s.beginStep.run = .running →
    decodeWord s.fetch = .error r →
    step s = .next { s.beginStep with run := .halted .illegalOpcode s.pc s.fetch }

/-- R54, R51, R55: the word fetched is the byte at PC masked to 12 bits, times 256, plus the byte at PC + 1 masked to 12 bits. -/
def Obligations.FetchIsBigEndian : Prop :=
  ∀ s : State, s.fetch.toNat =
    (s.mem.read (s.pc.toNat % 4096)).toNat * 256 + (s.mem.read ((s.pc.toNat + 1) % 4096)).toNat

/-- R195, R93 (the spec's decisions D9, D10; log 12, 24): whenever a step of a running machine ends Halted, the record holds the PC
and the word of the faulting instruction, and nothing else has changed since the start of the step: no timer has moved,
nothing is presented, PHASE stands. -/
def Obligations.FaultIsPrecise : Prop :=
  ∀ (s t : State) (kind : FaultKind) (pc op : Word), s.run = .running → step s = .next t → t.run = .halted kind pc op →
    pc = s.pc ∧ op = s.fetch ∧ t = { s.beginStep with run := .halted kind s.pc s.fetch }

/-- R191, R192, R193, R194, R215 (a fatal error as a latched RUN: log 12; the sample of the shutdown signal: the spec's D14, log 9): a
step of a running machine ends with RUN other than Running only as a shutdown seen at a frame boundary, a fetched word that is
no legal instruction (one the decoder rejects, or a `0nnn` word), a CALL with SP = 16 or a RET with SP = 0, and RUN says which.
Of the instructions themselves only that CALL, that RET and the illegal row stop a machine. -/
def Obligations.OnlyThreeErrorsAndShutdownStopTheMachine : Prop :=
  (∀ s t : State, s.run = .running → step s = .next t → t.run ≠ .running →
    (s.phase = 0 ∧ s.env.shutdownIn = some 0 ∧ t.run = .stopped) ∨
    (legalWord s.fetch = false ∧ t.run = .halted .illegalOpcode s.pc s.fetch) ∨
    (∃ nnn, decodeWord s.fetch = .ok (.call nnn) ∧ s.sp = 16 ∧ t.run = .halted .stackOverflow s.pc s.fetch) ∨
    (decodeWord s.fetch = .ok .ret ∧ s.sp = 0 ∧ t.run = .halted .stackUnderflow s.pc s.fetch)) ∧
  ∀ (i : Instr) (s t : State), exec i s = .next t → s.run = .running → t.run ≠ .running →
    (∃ nnn, i = .call nnn ∧ s.sp = 16 ∧ t.run = .halted .stackOverflow s.pc (encode i)) ∨
    (i = .ret ∧ s.sp = 0 ∧ t.run = .halted .stackUnderflow s.pc (encode i)) ∨
    (∃ nnn, i = .illegal0nnn nnn ∧ t.run = .halted .illegalOpcode s.pc (encode i))

/-- R36 (7), R195, R196, R215 (log 10): a Halted machine takes no step and hands over its record; no step changes a machine whose RUN is
not Running. -/
def Obligations.NothingChangesUntilReset : Prop :=
  ∀ s : State,
    (∀ kind pc op, s.run = .halted kind pc op → step s = .fault (.halted kind pc op)) ∧
    (s.run = .stopped → step s = .next s)

/-- R215 (D14; log 9, 10): a shutdown signal raised at a frame boundary stops the machine there, nothing else changes, and it stays
so; a step of a running machine ends Stopped in no other way, so a signal raised inside a frame is not seen before its end. -/
def Obligations.ShutdownStopsOnlyBetweenFrames : Prop :=
  (∀ s : State, s.run = .running → 1 ≤ s.cfg.stepsPerFrame → s.phase = 0 → s.env.shutdownIn = some 0 →
    step s = .next { s with run := .stopped } ∧
      ∀ k, Host.Core.run core k { s with run := .stopped } = .next { s with run := .stopped }) ∧
  ∀ s t : State, s.run = .running → step s = .next t → t.run = .stopped → s.phase = 0 ∧ s.env.shutdownIn = some 0

/-- R211 (the packing of the word is the spec's decision D13, log 20; where the answer comes from is log 7): K is replaced by the
answer of one `poll()` at the start of a frame, and stands for all the other steps of the frame. -/
def Obligations.KeypadIsPolledOncePerFrame : Prop :=
  ∀ s t : State, s.run = .running → t.run ≠ .stopped → step s = .next t →
    (s.phase = 0 → t.keys = s.env.keypad ∧ t.env.polls = s.env.polls + 1 ∧ t.env.keyWords = s.env.keyWords.tail) ∧
    (s.phase ≠ 0 → t.keys = s.keys ∧ t.env.polls = s.env.polls ∧ t.env.keyWords = s.env.keyWords)

/-! ### Control transfer -/

/-- R101, R107: `PC <- nnn`, and `PC <- nnn + V[0]` unreduced; nothing else changes. -/
def Obligations.JumpsSetPc : Prop :=
  ∀ (s : State) (nnn : Addr),
    (∃ t, exec (.jp nnn) s = .next t ∧ t.pc.toNat = nnn.toNat ∧ t = { s with pc := t.pc } ∧
      ∀ a, t.memRead a = s.memRead a) ∧
    (∃ t, exec (.jpV0 nnn) s = .next t ∧ t.pc.toNat = nnn.toNat + (s.V 0).toNat ∧ t = { s with pc := t.pc } ∧
      ∀ a, t.memRead a = s.memRead a)

/-- R102: with SP below 16 CALL saves PC + 2 in `Stack[SP]` (the saved value is the spec's D3, log 15), moves SP up by one and sets PC;
with SP = 16 it raises `StackOverflow` with its PC and its word `2nnn`, and nothing is written. That the fatal error is a next state
with RUN latched and nothing else changed is log 12 (the spec's D9 and D10). -/
def Obligations.CallPushesOrOverflows : Prop :=
  ∀ (s : State) (nnn : Addr),
    (s.sp.val < 16 → ∃ t w, exec (.call nnn) s = .next t ∧ t.stack[s.sp.val]? = some w ∧
      w.toNat = (s.pc.toNat + 2) % 65536 ∧ (∀ k : Nat, k ≠ s.sp.val → t.stack[k]? = s.stack[k]?) ∧
      t.sp.val = s.sp.val + 1 ∧ t.pc.toNat = nnn.toNat ∧ t = { s with stack := t.stack, sp := t.sp, pc := t.pc } ∧
      ∀ a, t.memRead a = s.memRead a) ∧
    (s.sp.val = 16 → exec (.call nnn) s =
      .next { s with run := .halted .stackOverflow s.pc (BitVec.ofNat 16 (0x2000 + nnn.toNat)) })

/-- R100 (policy set by D3, conflict C2; log 15): with SP above 0 RET sets PC to `Stack[SP - 1]` and moves SP down by one, the stack
unchanged; with SP = 0 it raises `StackUnderflow` with its PC and 0x00EE, and nothing is written. -/
def Obligations.RetPopsOrUnderflows : Prop :=
  ∀ s : State,
    (0 < s.sp.val → ∃ t, exec .ret s = .next t ∧ s.stack[s.sp.val - 1]? = some t.pc ∧ t.sp.val = s.sp.val - 1 ∧
      t = { s with pc := t.pc, sp := t.sp } ∧ ∀ a, t.memRead a = s.memRead a) ∧
    (s.sp.val = 0 → exec .ret s = .next { s with run := .halted .stackUnderflow s.pc 0x00EE })

/-- R25, R100, R102 (log 15): a RET right after a CALL comes back to the instruction after the CALL with SP as it was and every entry
of the stack in use unchanged. -/
def Obligations.RetUndoesCall : Prop :=
  ∀ (s : State) (nnn : Addr), s.sp.val < 16 → ∃ t u, exec (.call nnn) s = .next t ∧ exec .ret t = .next u ∧
    PcPlus s u 2 ∧ u.sp = s.sp ∧ (∀ k : Nat, k < s.sp.val → u.stack[k]? = s.stack[k]?) ∧
    u = { s with pc := u.pc, stack := u.stack }

/-- R103, R104, R105, R106: the four register skips add 4 to PC if their comparison of unsigned bytes holds, else 2, and change nothing
else. -/
def Obligations.RegisterSkips : Prop :=
  ∀ (s : State) (x y : Reg) (kk : Byte),
    SkipResult (.seImm x kk) s ((s.V x).toNat = kk.toNat) ∧
    SkipResult (.sneImm x kk) s ((s.V x).toNat ≠ kk.toNat) ∧
    SkipResult (.seReg x y) s ((s.V x).toNat = (s.V y).toNat) ∧
    SkipResult (.sneReg x y) s ((s.V x).toNat ≠ (s.V y).toNat)

/-- R77, R191 (D1; log 11): a `0nnn` word other than CLS and RET raises `IllegalOpcode` with its PC and the word, and nothing else. -/
def Obligations.ZeroNnnIsIllegal : Prop :=
  ∀ (s : State) (nnn : Addr), exec (.illegal0nnn nnn) s =
    .next { s with run := .halted .illegalOpcode s.pc (BitVec.ofNat 16 nnn.toNat) }

/-! ### Loads, arithmetic, logic, shifts, RND -/

/-- R120, R121, R122: kk, V[x] + kk modulo 256 or V[y] goes to V[x], no flag is recorded (VF is written only as the destination), PC
advances by 2, and nothing else changes. -/
def Obligations.LoadsAndAddImmediate : Prop :=
  ∀ (s : State) (x y : Reg) (kk : Byte),
    RegResult (.ldImm x kk) s x kk.toNat ∧
    RegResult (.addImm x kk) s x (((s.V x).toNat + kk.toNat) % 256) ∧
    RegResult (.ldReg x y) s x (s.V y).toNat

/-- R123, R124, R125: the bitwise result goes to V[x], VF untouched by default; under `QUIRK_LOGIC_RESETS_VF` VF is 0 afterwards (U5); PC
advances by 2, and nothing else changes. -/
def Obligations.LogicResults : Prop :=
  ∀ (s : State) (x y : Reg),
    (s.cfg.logicResetsVF = false →
      RegResult (.orReg x y) s x ((s.V x).toNat ||| (s.V y).toNat) ∧
      RegResult (.andReg x y) s x ((s.V x).toNat &&& (s.V y).toNat) ∧
      RegResult (.xorReg x y) s x ((s.V x).toNat ^^^ (s.V y).toNat)) ∧
    (s.cfg.logicResetsVF = true →
      FlagResult (.orReg x y) s x ((s.V x).toNat ||| (s.V y).toNat) 0 ∧
      FlagResult (.andReg x y) s x ((s.V x).toNat &&& (s.V y).toNat) 0 ∧
      FlagResult (.xorReg x y) s x ((s.V x).toNat ^^^ (s.V y).toNat) 0)

/-- R126 (order of the writes: R133): the sum modulo 256 goes to V[x], then VF is 1 if the sum exceeds 255, else 0, so with x = 15 the
flag is what remains; PC advances by 2, and nothing else changes. -/
def Obligations.AddWithCarryOut : Prop :=
  ∀ (s : State) (x y : Reg),
    FlagResult (.addReg x y) s x (((s.V x).toNat + (s.V y).toNat) % 256)
      (if 255 < (s.V x).toNat + (s.V y).toNat then 1 else 0)

/-- R127, R129 (order of the writes: R133): the difference modulo 256 goes to V[x], then VF is 1 if there is no borrow, equal operands
included, else 0; PC advances by 2, and nothing else changes. -/
def Obligations.SubtractionsWithNotBorrow : Prop :=
  ∀ (s : State) (x y : Reg),
    FlagResult (.subReg x y) s x (((s.V x).toNat + 256 - (s.V y).toNat) % 256)
      (if (s.V y).toNat ≤ (s.V x).toNat then 1 else 0) ∧
    FlagResult (.subnReg x y) s x (((s.V y).toNat + 256 - (s.V x).toNat) % 256)
      (if (s.V x).toNat ≤ (s.V y).toNat then 1 else 0)

/-- R128, R130 (order of the writes: R133): V[x] shifted by one goes to V[x], then the bit shifted out to VF; the source is V[y] under
`QUIRK_SHIFT_USES_VY` (U1); PC advances by 2, and nothing else changes. -/
def Obligations.ShiftsByOne : Prop :=
  ∀ (s : State) (x y : Reg) (src : Byte), src = (if s.cfg.shiftUsesVy = true then s.V y else s.V x) →
    FlagResult (.shr x y) s x (src.toNat / 2) (src.toNat % 2) ∧
    FlagResult (.shl x y) s x (src.toNat * 2 % 256) (src.toNat / 128)

/-- R131, R221: exactly one random byte is consumed, V[x] is it AND kk, so no bit outside kk is set; nothing else changes. The byte is
a free value (log 8): the statement holds for every one. -/
def Obligations.RndMasksOneRandomByte : Prop :=
  ∀ (s : State) (x : Reg) (kk : Byte), ∃ t, exec (.rnd x kk) s = .next t ∧
    (t.V x).toNat = s.env.random.toNat &&& kk.toNat ∧ t.V x &&& ~~~kk = 0 ∧ (∀ r, r ≠ x → t.V r = s.V r) ∧
    t.env = { s.env with rndBytes := s.env.rndBytes.tail, draws := s.env.draws + 1 } ∧ PcPlus s t 2 ∧
    t = { s with v := t.v, pc := t.pc, env := t.env } ∧ ∀ a, t.memRead a = s.memRead a

/-! ### Index and memory -/

/-- R140, R141, R142: nnn, I + V[x] modulo 65536 (no carry recorded) or 5 times the low nibble of V[x] goes to I, PC advances by 2, and
nothing else changes. R141 is the default of `QUIRK_ADDI_SETS_VF`; that `Fx1E` is refused under the other value is no part of
these rules but the choice of log 14 (the spec's D16, R7, U3). -/
def Obligations.IndexLoads : Prop :=
  ∀ (s : State) (x : Reg) (nnn : Addr),
    (∃ t, exec (.ldI nnn) s = .next t ∧ t.i.toNat = nnn.toNat ∧ PcPlus s t 2 ∧ t = { s with i := t.i, pc := t.pc } ∧
      ∀ a, t.memRead a = s.memRead a) ∧
    (s.cfg.addISetsVF = false → ∃ t, exec (.addI x) s = .next t ∧ t.i.toNat = (s.i.toNat + (s.V x).toNat) % 65536 ∧
      PcPlus s t 2 ∧ t = { s with i := t.i, pc := t.pc } ∧ ∀ a, t.memRead a = s.memRead a) ∧
    (s.cfg.addISetsVF = true → exec (.addI x) s = .refused .quirkAddISetsVF) ∧
    (∃ t, exec (.ldF x) s = .next t ∧ t.i.toNat = (s.V x).toNat % 16 * 5 ∧ PcPlus s t 2 ∧
      t = { s with i := t.i, pc := t.pc } ∧ ∀ a, t.memRead a = s.memRead a)

/-- R143: hundreds, tens and ones of V[x] are stored at I, I + 1, I + 2, each address masked; every other byte reads as before, PC
advances by 2, and nothing else changes. -/
def Obligations.BcdStoresThreeDigits : Prop :=
  ∀ (s : State) (x : Reg), s.mem.wf = true → ∃ t, exec (.ldB x) s = .next t ∧
    (t.memRead (s.ea 0)).toNat = (s.V x).toNat / 100 ∧
    (t.memRead (s.ea 1)).toNat = (s.V x).toNat / 10 % 10 ∧
    (t.memRead (s.ea 2)).toNat = (s.V x).toNat % 10 ∧
    (∀ a, (∀ k, k < 3 → a % 4096 ≠ s.ea k % 4096) → t.memRead a = s.memRead a) ∧
    PcPlus s t 2 ∧ t = { s with mem := t.mem, pc := t.pc }

/-- R144: V0 to Vx stored at I upward, each address masked; every other byte reads as before; I unchanged, or moved past the block
under `QUIRK_LOADSTORE_INC_I` (U2). -/
def Obligations.StoreBlock : Prop :=
  ∀ (s : State) (x : Reg), s.mem.wf = true → ∃ t, exec (.ldMemVx x) s = .next t ∧
    (∀ r : Reg, r ≤ x → t.memRead (s.ea r.val) = s.V r) ∧
    (∀ a, (∀ k, k ≤ x.val → a % 4096 ≠ s.ea k % 4096) → t.memRead a = s.memRead a) ∧
    t.i.toNat = (if s.cfg.loadStoreIncI = true then (s.i.toNat + x.val + 1) % 65536 else s.i.toNat) ∧
    PcPlus s t 2 ∧ t = { s with mem := t.mem, i := t.i, pc := t.pc }

/-- R145: V0 to Vx loaded from I upward, each address masked; the registers above x keep their values; I as in R144. -/
def Obligations.LoadBlock : Prop :=
  ∀ (s : State) (x : Reg), ∃ t, exec (.ldVxMem x) s = .next t ∧
    (∀ r : Reg, r ≤ x → t.V r = s.mem.read ((s.i.toNat + r.val) % 4096)) ∧ (∀ r : Reg, x < r → t.V r = s.V r) ∧
    t.i.toNat = (if s.cfg.loadStoreIncI = true then (s.i.toNat + x.val + 1) % 65536 else s.i.toNat) ∧
    PcPlus s t 2 ∧ t = { s with v := t.v, i := t.i, pc := t.pc } ∧ ∀ a, t.memRead a = s.memRead a

/-- R144, R145, R57: in the standard configuration a block stored and loaded back leaves every register as it was. -/
def Obligations.LoadUndoesStore : Prop :=
  ∀ (s : State) (x : Reg), s.mem.wf = true → s.cfg.loadStoreIncI = false →
    ∃ t u, exec (.ldMemVx x) s = .next t ∧ exec (.ldVxMem x) t = .next u ∧ u.v = s.v ∧ u.mem = t.mem

/-- R60, R54: a store is seen by the next fetch: after the two bytes of a word are written at PC and PC + 1 the machine fetches
that word, whatever PC is. -/
def Obligations.FetchSeesAStore : Prop :=
  ∀ (s : State) (op : Word), s.mem.wf = true →
    ((s.memWrite s.pc.toNat (op.extractLsb' 8 8)).memWrite (s.pc.toNat + 1) (op.extractLsb' 0 8)).fetch = op

/-! ### Display -/

/-- R160: every cell is 0, PC advances by 2, and nothing else changes, VF and memory included. -/
def Obligations.ClsClearsEveryCell : Prop :=
  ∀ s : State, ∃ t, exec .cls s = .next t ∧ (∀ cx cy, t.fb.get cx cy = false) ∧ PcPlus s t 2 ∧
    t = { s with fb := t.fb, pc := t.pc } ∧ ∀ a, t.memRead a = s.memRead a

/-- R161: every cell of the screen is XORed with the sprite's pixel on it, the sprite clipped at the right and bottom edges and its
start wrapped; VF is the collision, 0 or 1; nothing else changes. -/
def Obligations.DrwXorsTheClippedSprite : Prop :=
  ∀ (s : State) (x y : Reg) (n : Fin 16) (sx sy : Nat), sx = (s.V x).toNat % 64 → sy = (s.V y).toNat % 32 →
    ∃ t, exec (.drw x y n) s = .next t ∧
      (∀ cx, cx < 64 → ∀ cy, cy < 32 → t.fb.get cx cy = (s.fb.get cx cy ^^ s.spriteBit sx sy n.val cx cy)) ∧
      (t.V 15 = 1 ∨ t.V 15 = 0) ∧
      (t.V 15 = 1 ↔ ∃ cx, cx < 64 ∧ ∃ cy, cy < 32 ∧ s.fb.get cx cy = true ∧ s.spriteBit sx sy n.val cx cy = true) ∧
      (∀ r, r ≠ 15 → t.V r = s.V r) ∧ PcPlus s t 2 ∧ t = { s with v := t.v, fb := t.fb, pc := t.pc } ∧
      ∀ a, t.memRead a = s.memRead a

/-- R162 (2): after a DRW, VF = 1 exactly when some cell of the screen went from 1 to 0. -/
def Obligations.CollisionMeansACellWentOut : Prop :=
  ∀ (s : State) (x y : Reg) (n : Fin 16), ∃ t, exec (.drw x y n) s = .next t ∧
    (t.V 15 = 1 ↔ ∃ cx, cx < 64 ∧ ∃ cy, cy < 32 ∧ s.fb.get cx cy = true ∧ t.fb.get cx cy = false)

/-- R162 (1): drawing the same sprite twice at the same coordinates restores the display exactly; "the same coordinates" is that the
first draw's VF write left V[x] and V[y] as they were. -/
def Obligations.DrawingTwiceRestoresTheDisplay : Prop :=
  ∀ (s : State) (x y : Reg) (n : Fin 16), ∃ t, exec (.drw x y n) s = .next t ∧
    (t.V x = s.V x → t.V y = s.V y → ∃ u, exec (.drw x y n) t = .next u ∧ u.fb = s.fb)

/-- R162 (3): at most 8 n cells change. -/
def Obligations.DrwChangesAtMostEightCellsARow : Prop :=
  ∀ (s t : State) (x y : Reg) (n : Fin 16), exec (.drw x y n) s = .next t →
    ((Finset.range 64 ×ˢ Finset.range 32).filter (fun c => t.fb.get c.1 c.2 ≠ s.fb.get c.1 c.2)).card ≤ 8 * n.val

/-! ### Timers and keypad -/

/-- R170, R171, R172: DT goes to V[x], V[x] goes to DT, V[x] goes to ST; each changes its destination and PC alone. -/
def Obligations.TimerInstructions : Prop :=
  ∀ (s : State) (x : Reg),
    RegResult (.ldVxDT x) s x s.dt.toNat ∧
    (∃ t, exec (.ldDTVx x) s = .next t ∧ t.dt = s.V x ∧ PcPlus s t 2 ∧ t = { s with dt := t.dt, pc := t.pc } ∧
      ∀ a, t.memRead a = s.memRead a) ∧
    (∃ t, exec (.ldSTVx x) s = .next t ∧ t.st = s.V x ∧ PcPlus s t 2 ∧ t = { s with st := t.st, pc := t.pc } ∧
      ∀ a, t.memRead a = s.memRead a)

/-- R173, R174: the keypad skips add 4 to PC if the key is down (SKP) or up (SKNP), else 2, and change nothing else; the low nibble of V[x]
selects the key. That key k is bit k of K, 1 meaning pressed, is log 20 (the spec's D13). -/
def Obligations.KeypadSkips : Prop :=
  ∀ (s : State) (x : Reg),
    SkipResult (.skp x) s (s.keys.toNat / 2 ^ ((s.V x).toNat % 16) % 2 = 1) ∧
    SkipResult (.sknp x) s (s.keys.toNat / 2 ^ ((s.V x).toNat % 16) % 2 = 0)

/-- R175: with a key pressed the lowest pressed key goes to V[x] and the machine advances; with none nothing changes, PC included. That
key k is bit k of K is log 20 (the spec's D13). R175 is the default of `QUIRK_KEYWAIT_ON_RELEASE`; that `Fx0A` is refused under the other
value is no part of it but the choice of log 14 (the spec's D16, R7, U4). -/
def Obligations.KeyWait : Prop :=
  ∀ (s : State) (x : Reg),
    (s.cfg.keyWaitOnRelease = false →
      (s.keys = 0 → exec (.ldVxK x) s = .next s) ∧
      (s.keys ≠ 0 → ∃ k, k < 16 ∧ s.keys.getLsbD k = true ∧ (∀ j, j < k → s.keys.getLsbD j = false) ∧
        RegResult (.ldVxK x) s x k)) ∧
    (s.cfg.keyWaitOnRelease = true → exec (.ldVxK x) s = .refused .quirkKeyWaitOnRelease)

/-! ### The frame -/

/-- R205, R206, R216, R210: at a frame end each timer goes down by 1 while above 0, then the display is presented, then the gate is
open exactly when ST, after the decrement, is above 0 (so a sound timer of 1 stays silent, R243); nothing else changes but PHASE. -/
def Obligations.FrameEnd : Prop :=
  ∀ s : State, s.endFrame.dt.toNat = s.dt.toNat - 1 ∧ s.endFrame.st.toNat = s.st.toNat - 1 ∧
    s.endFrame.frameOut = some s.fb ∧ s.endFrame.toneActive = some (decide (1 < s.st.toNat)) ∧
    s.endFrame = { s with
      dt := s.endFrame.dt
      st := s.endFrame.st
      phase := 0
      frameOut := s.endFrame.frameOut
      toneActive := s.endFrame.toneActive }

/-- R205: after k frame ends a timer that held v holds max(v - k, 0). -/
def Obligations.TimersAfterFrameEnds : Prop :=
  ∀ (k : Nat) (s : State), (State.endFrame^[k] s).dt.toNat = s.dt.toNat - k ∧ (State.endFrame^[k] s).st.toNat = s.st.toNat - k

/-- R210, R212: a frame is N steps unless one of them stops the machine: from a frame boundary k steps, k below N, leave PHASE at k and
present nothing; after N steps PHASE is 0 again, one keypad word has been read, the display has been presented and the gate
updated. -/
def Obligations.FrameIsNSteps : Prop :=
  ∀ (s t : State) (k : Nat), s.run = .running → s.phase = 0 → 1 ≤ k → k ≤ s.cfg.stepsPerFrame →
    Host.Core.run core k s = .next t → t.run = .running →
    t.keys = s.env.keypad ∧ t.env.polls = s.env.polls + 1 ∧
    (k < s.cfg.stepsPerFrame → t.phase = k ∧ t.frameOut = s.frameOut ∧ t.toneActive = s.toneActive) ∧
    (k = s.cfg.stepsPerFrame → t.phase = 0 ∧ t.frameOut = some t.fb ∧ t.toneActive = some (decide (0 < t.st.toNat)))

/-- R205, R171, R172, R242: a step that ends Running and does not end its frame leaves in each timer what its instruction leaves there
(V[x] after that timer's own writer, the old value after every other instruction, the other timer's writer included); one that
ends its frame leaves that value less 1, or 0, so a value written by the last step of a frame is decremented at once. -/
def Obligations.TimersMoveOnlyAtFrameEnds : Prop :=
  ∀ (s t : State) (i : Instr), s.run = .running → s.beginStep.run = .running → decodeWord s.fetch = .ok i →
    step s = .next t → t.run = .running →
    (s.phase + 1 < s.cfg.stepsPerFrame → t.dt = s.dtAfter i ∧ t.st = s.stAfter i) ∧
    (s.cfg.stepsPerFrame ≤ s.phase + 1 →
      t.dt.toNat = (s.dtAfter i).toNat - 1 ∧ t.st.toNat = (s.stAfter i).toNat - 1)

/-! ### Rules about all instructions -/

/-- R94: no instruction writes K, PHASE, the outputs or the parameters; RND alone touches the inputs; the timers are written by
their own instruction alone. -/
def Obligations.WhatNoInstructionWrites : Prop :=
  ∀ (i : Instr) (s t : State), exec i s = .next t →
    t.keys = s.keys ∧ t.phase = s.phase ∧ t.frameOut = s.frameOut ∧ t.toneActive = s.toneActive ∧ t.cfg = s.cfg ∧
    ((∃ x kk, i = .rnd x kk) ∨ t.env = s.env) ∧ ((∃ x, i = .ldDTVx x) ∨ t.dt = s.dt) ∧
    ((∃ x, i = .ldSTVx x) ∨ t.st = s.st)

/-- R22, R24, R25, R29, R50: the listed writers and no other: I (with the block transfers under `QUIRK_LOADSTORE_INC_I`), SP and the
stack, the display, memory. -/
def Obligations.OnlyTheListedWriters : Prop :=
  ∀ (i : Instr) (s t : State), exec i s = .next t →
    ((∃ nnn, i = .ldI nnn) ∨ (∃ x, i = .addI x) ∨ (∃ x, i = .ldF x) ∨
      (s.cfg.loadStoreIncI = true ∧ ((∃ x, i = .ldMemVx x) ∨ ∃ x, i = .ldVxMem x)) ∨ t.i = s.i) ∧
    (i = .ret ∨ (∃ nnn, i = .call nnn) ∨ t.sp = s.sp) ∧ ((∃ nnn, i = .call nnn) ∨ t.stack = s.stack) ∧
    (i = .cls ∨ (∃ x y n, i = .drw x y n) ∨ t.fb = s.fb) ∧
    ((∃ x, i = .ldB x) ∨ (∃ x, i = .ldMemVx x) ∨ t.mem = s.mem)

/-- R21: VF is written only by a flag writer, by an instruction whose destination it is, or (not the default) by a logic
instruction under `QUIRK_LOGIC_RESETS_VF`; and right after a flag writer it is 0 or 1. -/
def Obligations.FlagWritersOfVF : Prop :=
  ∀ (i : Instr) (s t : State), exec i s = .next t →
    (match i with
      | .addReg _ _ | .subReg _ _ | .subnReg _ _ | .shr _ _ | .shl _ _ | .drw _ _ _ => t.V 15 = 0 ∨ t.V 15 = 1
      | .orReg x _ | .andReg x _ | .xorReg x _ => x ≠ 15 → s.cfg.logicResetsVF = false → t.V 15 = s.V 15
      | .ldImm x _ | .addImm x _ | .ldReg x _ | .rnd x _ | .ldVxDT x | .ldVxK x | .ldVxMem x => x ≠ 15 → t.V 15 = s.V 15
      | _ => t.V 15 = s.V 15)

/-- R27: no instruction reads ST: with another ST the instruction does the same to everything else, and an instruction that does not
write ST leaves that other one. -/
def Obligations.NoInstructionReadsST : Prop :=
  ∀ (i : Instr) (s t : State) (b : Byte), exec i s = .next t →
    ∃ c, exec i { s with st := b } = .next { t with st := c } ∧ ((∃ x, i = .ldSTVx x) → c = t.st) ∧
      ((∀ x, i ≠ .ldSTVx x) → c = b)

/-- R22: bits 15..12 of I cannot be observed: an instruction started with another I of the same low 12 bits does the same to
everything but those bits. -/
def Obligations.HighBitsOfIAreNotObservable : Prop :=
  ∀ (i : Instr) (s t : State) (w : Word), w.toNat % 4096 = s.i.toNat % 4096 → exec i s = .next t →
    ∃ w', exec i { s with i := w } = .next { t with i := w' } ∧ w'.toNat % 4096 = t.i.toNat % 4096

/-- R25: entries at index SP and above are dead: an instruction started with another stack that agrees below SP does the same to
everything but the dead entries. -/
def Obligations.DeadStackEntriesAreNotRead : Prop :=
  ∀ (i : Instr) (s t : State) (stk : Vector Word 16), (∀ k : Nat, k < s.sp.val → stk[k]? = s.stack[k]?) →
    exec i s = .next t →
    ∃ stk', exec i { s with stack := stk } = .next { t with stack := stk' } ∧
      ∀ k : Nat, k < t.sp.val → stk'[k]? = t.stack[k]?

/-- R216, R219: the machine never reads its outputs: with other values in the two output ports a step does the same to everything
else. -/
def Obligations.OutputsAreNotRead : Prop :=
  ∀ (s t : State) (d : Option Display) (b : Option Bool), step s = .next t →
    ∃ d' b', step { s with frameOut := d, toneActive := b } = .next { t with frameOut := d', toneActive := b' }

/-! ### Runs -/

/-- R36, R24: the stack discipline along a run: SP at the end is SP at the start plus the CALLs completed less the RETs completed, so
from an empty stack every completed RET has its earlier CALL. -/
def Obligations.StackDiscipline : Prop :=
  ∀ (k : Nat) (s t : State), Host.Core.run core k s = .next t →
    t.sp.val + tally State.completesRet k s = s.sp.val + tally State.completesCall k s

/-- R225: an idle machine stays idle, every step is the jump, and nothing but K, DT, ST, the outputs, the position in the frame and
the inputs changes (PC keeps its low 12 bits). -/
def Obligations.IdleMachineStaysIdle : Prop :=
  ∀ (s : State) (a : Addr), s.idleAt a → 1 ≤ s.cfg.stepsPerFrame → s.beginStep.run = .running →
    ∃ t, step s = .next t ∧ t.idleAt a ∧
      t = { s with
        pc := t.pc
        keys := t.keys
        dt := t.dt
        st := t.st
        phase := t.phase
        frameOut := t.frameOut
        toneActive := t.toneActive
        env := t.env }

/-- R207, R225, R205: on an idle machine that no shutdown stops, each frame of N steps takes both timers down by 1, to 0. -/
def Obligations.TimersRunDownWhileIdle : Prop :=
  ∀ (f : Nat) (s : State) (a : Addr), s.idleAt a → 1 ≤ s.cfg.stepsPerFrame → s.phase = 0 → s.env.shutdownIn = none →
    ∃ t, Host.Core.run core (f * s.cfg.stepsPerFrame) s = .next t ∧ t.idleAt a ∧ t.phase = 0 ∧
      t.dt.toNat = s.dt.toNat - f ∧ t.st.toNat = s.st.toNat - f

/-- R36 (log 6): the invariant of the machine (memory in its canonical form with every address below 4096, supported parameters, PHASE
below N, a true fault record, outputs driven together) is kept by every step. -/
def Obligations.EveryStepKeepsTheInvariant : Prop :=
  ∀ s t : State, s.Inv → step s = .next t → t.Inv

/-- R37 (reset values by the spec's decision D5; log 2): the state after reset meets the invariant. -/
def Obligations.ResetMeetsTheInvariant : Prop := State.reset.Inv

/-- R90, R195: a machine that meets the invariant and is not Halted always takes its step: no step is refused and none faults. -/
def Obligations.MachineNeverGetsStuck : Prop :=
  ∀ s : State, s.Inv → s.failed = false → ∃ t, step s = .next t

/-! ### Reset -/

/-- R231 (any length from 0 to 3584 is legal by the spec's decision D20; log 5): after reset byte i of the image is at 0x200 + i, and
every byte below 0x200 is what reset with the empty image leaves there, the font of the parameters in the first 80 of them. -/
def Obligations.ImageIsLoadedAt0x200 : Prop :=
  ∀ (cfg : Config) (env : Env) (rom : List Byte), cfg.supported = true → rom.length ≤ 3584 →
    ∃ t t₀, boot cfg env rom = .next t ∧ boot cfg env [] = .next t₀ ∧
      (∀ (k : Nat) (h : k < rom.length), t.memRead (0x200 + k) = rom[k]) ∧
      (∀ a, a < 0x200 → t.memRead a = t₀.memRead a) ∧
      (∀ (k : Nat) (h : k < 80), t.memRead k = cfg.font[k])

/-- R37, R230 (the zeros are the spec's decision D5, PC its decision D6; log 2, 4): the state after reset with an image, every field and
every byte of memory: the font, zeros up to 0x200, the image, zeros above it. -/
def Obligations.ResetState : Prop :=
  ∀ (cfg : Config) (env : Env) (rom : List Byte), cfg.supported = true → rom.length ≤ 3584 →
    ∃ t, boot cfg env rom = .next t ∧ t.Inv ∧ t.pc.toNat = 0x200 ∧ t.i = 0 ∧ t.sp.val = 0 ∧ (∀ r, t.V r = 0) ∧
      (∀ k : Nat, k < 16 → t.stack[k]? = some 0) ∧ t.dt = 0 ∧ t.st = 0 ∧ t.keys = 0 ∧
      (∀ cx cy, t.fb.get cx cy = false) ∧ t.run = .running ∧ t.phase = 0 ∧ t.frameOut = none ∧ t.toneActive = none ∧
      t.env = env ∧ t.cfg = cfg ∧
      (∀ (k : Nat) (h : k < 80), t.memRead k = cfg.font[k]) ∧ (∀ a, 80 ≤ a → a < 0x200 → t.memRead a = 0) ∧
      (∀ (k : Nat) (h : k < rom.length), t.memRead (0x200 + k) = rom[k]) ∧
      (∀ a, 0x200 + rom.length ≤ a → a < 4096 → t.memRead a = 0)

/-- R232: an image of more than 3584 bytes is refused, not truncated. -/
def Obligations.TooLargeAnImageIsRefused : Prop :=
  ∀ (cfg : Config) (env : Env) (rom : List Byte), 3584 < rom.length → boot cfg env rom = .refused .romTooLarge
end

