-- ==== Sys2Proof/Laws/State.lean ====
section
/-! SUPPORT. One lemma per field per named update of State, all true by rfl; what each update leaves of the reads V, memRead
and fetch; the two structure updates that decide on a case (skipIf, afterBlock) stand with their operations. -/

namespace Sys2Proof.Machine

variable (s : State)

/-! ### setV -/

@[simp] theorem State.setV_v (x : Reg) (b : Byte) : (s.setV x b).v = s.v.set x.val b := rfl
@[simp] theorem State.setV_i (x : Reg) (b : Byte) : (s.setV x b).i = s.i := rfl
@[simp] theorem State.setV_pc (x : Reg) (b : Byte) : (s.setV x b).pc = s.pc := rfl
@[simp] theorem State.setV_sp (x : Reg) (b : Byte) : (s.setV x b).sp = s.sp := rfl
@[simp] theorem State.setV_stack (x : Reg) (b : Byte) : (s.setV x b).stack = s.stack := rfl
@[simp] theorem State.setV_dt (x : Reg) (b : Byte) : (s.setV x b).dt = s.dt := rfl
@[simp] theorem State.setV_st (x : Reg) (b : Byte) : (s.setV x b).st = s.st := rfl
@[simp] theorem State.setV_keys (x : Reg) (b : Byte) : (s.setV x b).keys = s.keys := rfl
@[simp] theorem State.setV_fb (x : Reg) (b : Byte) : (s.setV x b).fb = s.fb := rfl
@[simp] theorem State.setV_mem (x : Reg) (b : Byte) : (s.setV x b).mem = s.mem := rfl
@[simp] theorem State.setV_run (x : Reg) (b : Byte) : (s.setV x b).run = s.run := rfl
@[simp] theorem State.setV_phase (x : Reg) (b : Byte) : (s.setV x b).phase = s.phase := rfl
@[simp] theorem State.setV_frameOut (x : Reg) (b : Byte) : (s.setV x b).frameOut = s.frameOut := rfl
@[simp] theorem State.setV_toneActive (x : Reg) (b : Byte) : (s.setV x b).toneActive = s.toneActive := rfl
@[simp] theorem State.setV_env (x : Reg) (b : Byte) : (s.setV x b).env = s.env := rfl
@[simp] theorem State.setV_cfg (x : Reg) (b : Byte) : (s.setV x b).cfg = s.cfg := rfl
@[simp] theorem State.setV_memRead (x : Reg) (b : Byte) (addr : Nat) : (s.setV x b).memRead addr = s.memRead addr := rfl
@[simp] theorem State.setV_fetch (x : Reg) (b : Byte) : (s.setV x b).fetch = s.fetch := rfl

/-! ### setI -/

@[simp] theorem State.setI_v (w : Word) : (s.setI w).v = s.v := rfl
@[simp] theorem State.setI_i (w : Word) : (s.setI w).i = w := rfl
@[simp] theorem State.setI_pc (w : Word) : (s.setI w).pc = s.pc := rfl
@[simp] theorem State.setI_sp (w : Word) : (s.setI w).sp = s.sp := rfl
@[simp] theorem State.setI_stack (w : Word) : (s.setI w).stack = s.stack := rfl
@[simp] theorem State.setI_dt (w : Word) : (s.setI w).dt = s.dt := rfl
@[simp] theorem State.setI_st (w : Word) : (s.setI w).st = s.st := rfl
@[simp] theorem State.setI_keys (w : Word) : (s.setI w).keys = s.keys := rfl
@[simp] theorem State.setI_fb (w : Word) : (s.setI w).fb = s.fb := rfl
@[simp] theorem State.setI_mem (w : Word) : (s.setI w).mem = s.mem := rfl
@[simp] theorem State.setI_run (w : Word) : (s.setI w).run = s.run := rfl
@[simp] theorem State.setI_phase (w : Word) : (s.setI w).phase = s.phase := rfl
@[simp] theorem State.setI_frameOut (w : Word) : (s.setI w).frameOut = s.frameOut := rfl
@[simp] theorem State.setI_toneActive (w : Word) : (s.setI w).toneActive = s.toneActive := rfl
@[simp] theorem State.setI_env (w : Word) : (s.setI w).env = s.env := rfl
@[simp] theorem State.setI_cfg (w : Word) : (s.setI w).cfg = s.cfg := rfl
@[simp] theorem State.setI_V (w : Word) (r : Reg) : (s.setI w).V r = s.V r := rfl
@[simp] theorem State.setI_memRead (w : Word) (addr : Nat) : (s.setI w).memRead addr = s.memRead addr := rfl
@[simp] theorem State.setI_fetch (w : Word) : (s.setI w).fetch = s.fetch := rfl

/-! ### setPC -/

@[simp] theorem State.setPC_v (w : Word) : (s.setPC w).v = s.v := rfl
@[simp] theorem State.setPC_i (w : Word) : (s.setPC w).i = s.i := rfl
@[simp] theorem State.setPC_pc (w : Word) : (s.setPC w).pc = w := rfl
@[simp] theorem State.setPC_sp (w : Word) : (s.setPC w).sp = s.sp := rfl
@[simp] theorem State.setPC_stack (w : Word) : (s.setPC w).stack = s.stack := rfl
@[simp] theorem State.setPC_dt (w : Word) : (s.setPC w).dt = s.dt := rfl
@[simp] theorem State.setPC_st (w : Word) : (s.setPC w).st = s.st := rfl
@[simp] theorem State.setPC_keys (w : Word) : (s.setPC w).keys = s.keys := rfl
@[simp] theorem State.setPC_fb (w : Word) : (s.setPC w).fb = s.fb := rfl
@[simp] theorem State.setPC_mem (w : Word) : (s.setPC w).mem = s.mem := rfl
@[simp] theorem State.setPC_run (w : Word) : (s.setPC w).run = s.run := rfl
@[simp] theorem State.setPC_phase (w : Word) : (s.setPC w).phase = s.phase := rfl
@[simp] theorem State.setPC_frameOut (w : Word) : (s.setPC w).frameOut = s.frameOut := rfl
@[simp] theorem State.setPC_toneActive (w : Word) : (s.setPC w).toneActive = s.toneActive := rfl
@[simp] theorem State.setPC_env (w : Word) : (s.setPC w).env = s.env := rfl
@[simp] theorem State.setPC_cfg (w : Word) : (s.setPC w).cfg = s.cfg := rfl
@[simp] theorem State.setPC_V (w : Word) (r : Reg) : (s.setPC w).V r = s.V r := rfl
@[simp] theorem State.setPC_memRead (w : Word) (addr : Nat) : (s.setPC w).memRead addr = s.memRead addr := rfl

/-! ### setDT -/

@[simp] theorem State.setDT_v (b : Byte) : (s.setDT b).v = s.v := rfl
@[simp] theorem State.setDT_i (b : Byte) : (s.setDT b).i = s.i := rfl
@[simp] theorem State.setDT_pc (b : Byte) : (s.setDT b).pc = s.pc := rfl
@[simp] theorem State.setDT_sp (b : Byte) : (s.setDT b).sp = s.sp := rfl
@[simp] theorem State.setDT_stack (b : Byte) : (s.setDT b).stack = s.stack := rfl
@[simp] theorem State.setDT_dt (b : Byte) : (s.setDT b).dt = b := rfl
@[simp] theorem State.setDT_st (b : Byte) : (s.setDT b).st = s.st := rfl
@[simp] theorem State.setDT_keys (b : Byte) : (s.setDT b).keys = s.keys := rfl
@[simp] theorem State.setDT_fb (b : Byte) : (s.setDT b).fb = s.fb := rfl
@[simp] theorem State.setDT_mem (b : Byte) : (s.setDT b).mem = s.mem := rfl
@[simp] theorem State.setDT_run (b : Byte) : (s.setDT b).run = s.run := rfl
@[simp] theorem State.setDT_phase (b : Byte) : (s.setDT b).phase = s.phase := rfl
@[simp] theorem State.setDT_frameOut (b : Byte) : (s.setDT b).frameOut = s.frameOut := rfl
@[simp] theorem State.setDT_toneActive (b : Byte) : (s.setDT b).toneActive = s.toneActive := rfl
@[simp] theorem State.setDT_env (b : Byte) : (s.setDT b).env = s.env := rfl
@[simp] theorem State.setDT_cfg (b : Byte) : (s.setDT b).cfg = s.cfg := rfl
@[simp] theorem State.setDT_V (b : Byte) (r : Reg) : (s.setDT b).V r = s.V r := rfl
@[simp] theorem State.setDT_memRead (b : Byte) (addr : Nat) : (s.setDT b).memRead addr = s.memRead addr := rfl
@[simp] theorem State.setDT_fetch (b : Byte) : (s.setDT b).fetch = s.fetch := rfl

/-! ### setST -/

@[simp] theorem State.setST_v (b : Byte) : (s.setST b).v = s.v := rfl
@[simp] theorem State.setST_i (b : Byte) : (s.setST b).i = s.i := rfl
@[simp] theorem State.setST_pc (b : Byte) : (s.setST b).pc = s.pc := rfl
@[simp] theorem State.setST_sp (b : Byte) : (s.setST b).sp = s.sp := rfl
@[simp] theorem State.setST_stack (b : Byte) : (s.setST b).stack = s.stack := rfl
@[simp] theorem State.setST_dt (b : Byte) : (s.setST b).dt = s.dt := rfl
@[simp] theorem State.setST_st (b : Byte) : (s.setST b).st = b := rfl
@[simp] theorem State.setST_keys (b : Byte) : (s.setST b).keys = s.keys := rfl
@[simp] theorem State.setST_fb (b : Byte) : (s.setST b).fb = s.fb := rfl
@[simp] theorem State.setST_mem (b : Byte) : (s.setST b).mem = s.mem := rfl
@[simp] theorem State.setST_run (b : Byte) : (s.setST b).run = s.run := rfl
@[simp] theorem State.setST_phase (b : Byte) : (s.setST b).phase = s.phase := rfl
@[simp] theorem State.setST_frameOut (b : Byte) : (s.setST b).frameOut = s.frameOut := rfl
@[simp] theorem State.setST_toneActive (b : Byte) : (s.setST b).toneActive = s.toneActive := rfl
@[simp] theorem State.setST_env (b : Byte) : (s.setST b).env = s.env := rfl
@[simp] theorem State.setST_cfg (b : Byte) : (s.setST b).cfg = s.cfg := rfl
@[simp] theorem State.setST_V (b : Byte) (r : Reg) : (s.setST b).V r = s.V r := rfl
@[simp] theorem State.setST_memRead (b : Byte) (addr : Nat) : (s.setST b).memRead addr = s.memRead addr := rfl
@[simp] theorem State.setST_fetch (b : Byte) : (s.setST b).fetch = s.fetch := rfl

/-! ### setFB -/

@[simp] theorem State.setFB_v (d : Display) : (s.setFB d).v = s.v := rfl
@[simp] theorem State.setFB_i (d : Display) : (s.setFB d).i = s.i := rfl
@[simp] theorem State.setFB_pc (d : Display) : (s.setFB d).pc = s.pc := rfl
@[simp] theorem State.setFB_sp (d : Display) : (s.setFB d).sp = s.sp := rfl
@[simp] theorem State.setFB_stack (d : Display) : (s.setFB d).stack = s.stack := rfl
@[simp] theorem State.setFB_dt (d : Display) : (s.setFB d).dt = s.dt := rfl
@[simp] theorem State.setFB_st (d : Display) : (s.setFB d).st = s.st := rfl
@[simp] theorem State.setFB_keys (d : Display) : (s.setFB d).keys = s.keys := rfl
@[simp] theorem State.setFB_fb (d : Display) : (s.setFB d).fb = d := rfl
@[simp] theorem State.setFB_mem (d : Display) : (s.setFB d).mem = s.mem := rfl
@[simp] theorem State.setFB_run (d : Display) : (s.setFB d).run = s.run := rfl
@[simp] theorem State.setFB_phase (d : Display) : (s.setFB d).phase = s.phase := rfl
@[simp] theorem State.setFB_frameOut (d : Display) : (s.setFB d).frameOut = s.frameOut := rfl
@[simp] theorem State.setFB_toneActive (d : Display) : (s.setFB d).toneActive = s.toneActive := rfl
@[simp] theorem State.setFB_env (d : Display) : (s.setFB d).env = s.env := rfl
@[simp] theorem State.setFB_cfg (d : Display) : (s.setFB d).cfg = s.cfg := rfl
@[simp] theorem State.setFB_V (d : Display) (r : Reg) : (s.setFB d).V r = s.V r := rfl
@[simp] theorem State.setFB_memRead (d : Display) (addr : Nat) : (s.setFB d).memRead addr = s.memRead addr := rfl
@[simp] theorem State.setFB_fetch (d : Display) : (s.setFB d).fetch = s.fetch := rfl

/-! ### memWrite -/

@[simp] theorem State.memWrite_v (a : Nat) (b : Byte) : (s.memWrite a b).v = s.v := rfl
@[simp] theorem State.memWrite_i (a : Nat) (b : Byte) : (s.memWrite a b).i = s.i := rfl
@[simp] theorem State.memWrite_pc (a : Nat) (b : Byte) : (s.memWrite a b).pc = s.pc := rfl
@[simp] theorem State.memWrite_sp (a : Nat) (b : Byte) : (s.memWrite a b).sp = s.sp := rfl
@[simp] theorem State.memWrite_stack (a : Nat) (b : Byte) : (s.memWrite a b).stack = s.stack := rfl
@[simp] theorem State.memWrite_dt (a : Nat) (b : Byte) : (s.memWrite a b).dt = s.dt := rfl
@[simp] theorem State.memWrite_st (a : Nat) (b : Byte) : (s.memWrite a b).st = s.st := rfl
@[simp] theorem State.memWrite_keys (a : Nat) (b : Byte) : (s.memWrite a b).keys = s.keys := rfl
@[simp] theorem State.memWrite_fb (a : Nat) (b : Byte) : (s.memWrite a b).fb = s.fb := rfl
@[simp] theorem State.memWrite_mem (a : Nat) (b : Byte) : (s.memWrite a b).mem = s.mem.write (a % memSize) b := rfl
@[simp] theorem State.memWrite_run (a : Nat) (b : Byte) : (s.memWrite a b).run = s.run := rfl
@[simp] theorem State.memWrite_phase (a : Nat) (b : Byte) : (s.memWrite a b).phase = s.phase := rfl
@[simp] theorem State.memWrite_frameOut (a : Nat) (b : Byte) : (s.memWrite a b).frameOut = s.frameOut := rfl
@[simp] theorem State.memWrite_toneActive (a : Nat) (b : Byte) : (s.memWrite a b).toneActive = s.toneActive := rfl
@[simp] theorem State.memWrite_env (a : Nat) (b : Byte) : (s.memWrite a b).env = s.env := rfl
@[simp] theorem State.memWrite_cfg (a : Nat) (b : Byte) : (s.memWrite a b).cfg = s.cfg := rfl
@[simp] theorem State.memWrite_V (a : Nat) (b : Byte) (r : Reg) : (s.memWrite a b).V r = s.V r := rfl

/-! ### raise -/

@[simp] theorem State.raise_v (k : FaultKind) (op : Word) : (s.raise k op).v = s.v := rfl
@[simp] theorem State.raise_i (k : FaultKind) (op : Word) : (s.raise k op).i = s.i := rfl
@[simp] theorem State.raise_pc (k : FaultKind) (op : Word) : (s.raise k op).pc = s.pc := rfl
@[simp] theorem State.raise_sp (k : FaultKind) (op : Word) : (s.raise k op).sp = s.sp := rfl
@[simp] theorem State.raise_stack (k : FaultKind) (op : Word) : (s.raise k op).stack = s.stack := rfl
@[simp] theorem State.raise_dt (k : FaultKind) (op : Word) : (s.raise k op).dt = s.dt := rfl
@[simp] theorem State.raise_st (k : FaultKind) (op : Word) : (s.raise k op).st = s.st := rfl
@[simp] theorem State.raise_keys (k : FaultKind) (op : Word) : (s.raise k op).keys = s.keys := rfl
@[simp] theorem State.raise_fb (k : FaultKind) (op : Word) : (s.raise k op).fb = s.fb := rfl
@[simp] theorem State.raise_mem (k : FaultKind) (op : Word) : (s.raise k op).mem = s.mem := rfl
@[simp] theorem State.raise_run (k : FaultKind) (op : Word) : (s.raise k op).run = .halted k s.pc op := rfl
@[simp] theorem State.raise_phase (k : FaultKind) (op : Word) : (s.raise k op).phase = s.phase := rfl
@[simp] theorem State.raise_frameOut (k : FaultKind) (op : Word) : (s.raise k op).frameOut = s.frameOut := rfl
@[simp] theorem State.raise_toneActive (k : FaultKind) (op : Word) : (s.raise k op).toneActive = s.toneActive := rfl
@[simp] theorem State.raise_env (k : FaultKind) (op : Word) : (s.raise k op).env = s.env := rfl
@[simp] theorem State.raise_cfg (k : FaultKind) (op : Word) : (s.raise k op).cfg = s.cfg := rfl
@[simp] theorem State.raise_V (k : FaultKind) (op : Word) (r : Reg) : (s.raise k op).V r = s.V r := rfl
@[simp] theorem State.raise_memRead (k : FaultKind) (op : Word) (addr : Nat) : (s.raise k op).memRead addr = s.memRead addr := rfl
@[simp] theorem State.raise_fetch (k : FaultKind) (op : Word) : (s.raise k op).fetch = s.fetch := rfl

/-! ### draw -/

@[simp] theorem State.draw_v : s.draw.v = s.v := rfl
@[simp] theorem State.draw_i : s.draw.i = s.i := rfl
@[simp] theorem State.draw_pc : s.draw.pc = s.pc := rfl
@[simp] theorem State.draw_sp : s.draw.sp = s.sp := rfl
@[simp] theorem State.draw_stack : s.draw.stack = s.stack := rfl
@[simp] theorem State.draw_dt : s.draw.dt = s.dt := rfl
@[simp] theorem State.draw_st : s.draw.st = s.st := rfl
@[simp] theorem State.draw_keys : s.draw.keys = s.keys := rfl
@[simp] theorem State.draw_fb : s.draw.fb = s.fb := rfl
@[simp] theorem State.draw_mem : s.draw.mem = s.mem := rfl
@[simp] theorem State.draw_run : s.draw.run = s.run := rfl
@[simp] theorem State.draw_phase : s.draw.phase = s.phase := rfl
@[simp] theorem State.draw_frameOut : s.draw.frameOut = s.frameOut := rfl
@[simp] theorem State.draw_toneActive : s.draw.toneActive = s.toneActive := rfl
@[simp] theorem State.draw_env : s.draw.env = s.env.afterDraw := rfl
@[simp] theorem State.draw_cfg : s.draw.cfg = s.cfg := rfl
@[simp] theorem State.draw_V (r : Reg) : s.draw.V r = s.V r := rfl
@[simp] theorem State.draw_memRead (addr : Nat) : s.draw.memRead addr = s.memRead addr := rfl
@[simp] theorem State.draw_fetch : s.draw.fetch = s.fetch := rfl

/-! ### advance -/

@[simp] theorem State.advance_v : s.advance.v = s.v := rfl
@[simp] theorem State.advance_i : s.advance.i = s.i := rfl
@[simp] theorem State.advance_pc : s.advance.pc = s.pc + 2 := rfl
@[simp] theorem State.advance_sp : s.advance.sp = s.sp := rfl
@[simp] theorem State.advance_stack : s.advance.stack = s.stack := rfl
@[simp] theorem State.advance_dt : s.advance.dt = s.dt := rfl
@[simp] theorem State.advance_st : s.advance.st = s.st := rfl
@[simp] theorem State.advance_keys : s.advance.keys = s.keys := rfl
@[simp] theorem State.advance_fb : s.advance.fb = s.fb := rfl
@[simp] theorem State.advance_mem : s.advance.mem = s.mem := rfl
@[simp] theorem State.advance_run : s.advance.run = s.run := rfl
@[simp] theorem State.advance_phase : s.advance.phase = s.phase := rfl
@[simp] theorem State.advance_frameOut : s.advance.frameOut = s.frameOut := rfl
@[simp] theorem State.advance_toneActive : s.advance.toneActive = s.toneActive := rfl
@[simp] theorem State.advance_env : s.advance.env = s.env := rfl
@[simp] theorem State.advance_cfg : s.advance.cfg = s.cfg := rfl
@[simp] theorem State.advance_V (r : Reg) : s.advance.V r = s.V r := rfl
@[simp] theorem State.advance_memRead (addr : Nat) : s.advance.memRead addr = s.memRead addr := rfl

/-! ### skip -/

@[simp] theorem State.skip_v : s.skip.v = s.v := rfl
@[simp] theorem State.skip_i : s.skip.i = s.i := rfl
@[simp] theorem State.skip_pc : s.skip.pc = s.pc + 4 := rfl
@[simp] theorem State.skip_sp : s.skip.sp = s.sp := rfl
@[simp] theorem State.skip_stack : s.skip.stack = s.stack := rfl
@[simp] theorem State.skip_dt : s.skip.dt = s.dt := rfl
@[simp] theorem State.skip_st : s.skip.st = s.st := rfl
@[simp] theorem State.skip_keys : s.skip.keys = s.keys := rfl
@[simp] theorem State.skip_fb : s.skip.fb = s.fb := rfl
@[simp] theorem State.skip_mem : s.skip.mem = s.mem := rfl
@[simp] theorem State.skip_run : s.skip.run = s.run := rfl
@[simp] theorem State.skip_phase : s.skip.phase = s.phase := rfl
@[simp] theorem State.skip_frameOut : s.skip.frameOut = s.frameOut := rfl
@[simp] theorem State.skip_toneActive : s.skip.toneActive = s.toneActive := rfl
@[simp] theorem State.skip_env : s.skip.env = s.env := rfl
@[simp] theorem State.skip_cfg : s.skip.cfg = s.cfg := rfl
@[simp] theorem State.skip_V (r : Reg) : s.skip.V r = s.V r := rfl
@[simp] theorem State.skip_memRead (addr : Nat) : s.skip.memRead addr = s.memRead addr := rfl

/-! ### poll -/

@[simp] theorem State.poll_v : s.poll.v = s.v := rfl
@[simp] theorem State.poll_i : s.poll.i = s.i := rfl
@[simp] theorem State.poll_pc : s.poll.pc = s.pc := rfl
@[simp] theorem State.poll_sp : s.poll.sp = s.sp := rfl
@[simp] theorem State.poll_stack : s.poll.stack = s.stack := rfl
@[simp] theorem State.poll_dt : s.poll.dt = s.dt := rfl
@[simp] theorem State.poll_st : s.poll.st = s.st := rfl
@[simp] theorem State.poll_keys : s.poll.keys = s.env.keypad := rfl
@[simp] theorem State.poll_fb : s.poll.fb = s.fb := rfl
@[simp] theorem State.poll_mem : s.poll.mem = s.mem := rfl
@[simp] theorem State.poll_run : s.poll.run = s.run := rfl
@[simp] theorem State.poll_phase : s.poll.phase = s.phase := rfl
@[simp] theorem State.poll_frameOut : s.poll.frameOut = s.frameOut := rfl
@[simp] theorem State.poll_toneActive : s.poll.toneActive = s.toneActive := rfl
@[simp] theorem State.poll_env : s.poll.env = s.env.afterPoll := rfl
@[simp] theorem State.poll_cfg : s.poll.cfg = s.cfg := rfl
@[simp] theorem State.poll_V (r : Reg) : s.poll.V r = s.V r := rfl
@[simp] theorem State.poll_memRead (addr : Nat) : s.poll.memRead addr = s.memRead addr := rfl
@[simp] theorem State.poll_fetch : s.poll.fetch = s.fetch := rfl

/-! ### tickTimers -/

@[simp] theorem State.tickTimers_v : s.tickTimers.v = s.v := rfl
@[simp] theorem State.tickTimers_i : s.tickTimers.i = s.i := rfl
@[simp] theorem State.tickTimers_pc : s.tickTimers.pc = s.pc := rfl
@[simp] theorem State.tickTimers_sp : s.tickTimers.sp = s.sp := rfl
@[simp] theorem State.tickTimers_stack : s.tickTimers.stack = s.stack := rfl
@[simp] theorem State.tickTimers_dt : s.tickTimers.dt = tick s.dt := rfl
@[simp] theorem State.tickTimers_st : s.tickTimers.st = tick s.st := rfl
@[simp] theorem State.tickTimers_keys : s.tickTimers.keys = s.keys := rfl
@[simp] theorem State.tickTimers_fb : s.tickTimers.fb = s.fb := rfl
@[simp] theorem State.tickTimers_mem : s.tickTimers.mem = s.mem := rfl
@[simp] theorem State.tickTimers_run : s.tickTimers.run = s.run := rfl
@[simp] theorem State.tickTimers_phase : s.tickTimers.phase = s.phase := rfl
@[simp] theorem State.tickTimers_frameOut : s.tickTimers.frameOut = s.frameOut := rfl
@[simp] theorem State.tickTimers_toneActive : s.tickTimers.toneActive = s.toneActive := rfl
@[simp] theorem State.tickTimers_env : s.tickTimers.env = s.env := rfl
@[simp] theorem State.tickTimers_cfg : s.tickTimers.cfg = s.cfg := rfl
@[simp] theorem State.tickTimers_V (r : Reg) : s.tickTimers.V r = s.V r := rfl
@[simp] theorem State.tickTimers_memRead (addr : Nat) : s.tickTimers.memRead addr = s.memRead addr := rfl
@[simp] theorem State.tickTimers_fetch : s.tickTimers.fetch = s.fetch := rfl

/-! ### present -/

@[simp] theorem State.present_v : s.present.v = s.v := rfl
@[simp] theorem State.present_i : s.present.i = s.i := rfl
@[simp] theorem State.present_pc : s.present.pc = s.pc := rfl
@[simp] theorem State.present_sp : s.present.sp = s.sp := rfl
@[simp] theorem State.present_stack : s.present.stack = s.stack := rfl
@[simp] theorem State.present_dt : s.present.dt = s.dt := rfl
@[simp] theorem State.present_st : s.present.st = s.st := rfl
@[simp] theorem State.present_keys : s.present.keys = s.keys := rfl
@[simp] theorem State.present_fb : s.present.fb = s.fb := rfl
@[simp] theorem State.present_mem : s.present.mem = s.mem := rfl
@[simp] theorem State.present_run : s.present.run = s.run := rfl
@[simp] theorem State.present_phase : s.present.phase = s.phase := rfl
@[simp] theorem State.present_frameOut : s.present.frameOut = some s.fb := rfl
@[simp] theorem State.present_toneActive : s.present.toneActive = s.toneActive := rfl
@[simp] theorem State.present_env : s.present.env = s.env := rfl
@[simp] theorem State.present_cfg : s.present.cfg = s.cfg := rfl
@[simp] theorem State.present_V (r : Reg) : s.present.V r = s.V r := rfl
@[simp] theorem State.present_memRead (addr : Nat) : s.present.memRead addr = s.memRead addr := rfl
@[simp] theorem State.present_fetch : s.present.fetch = s.fetch := rfl

/-! ### updateGate -/

@[simp] theorem State.updateGate_v : s.updateGate.v = s.v := rfl
@[simp] theorem State.updateGate_i : s.updateGate.i = s.i := rfl
@[simp] theorem State.updateGate_pc : s.updateGate.pc = s.pc := rfl
@[simp] theorem State.updateGate_sp : s.updateGate.sp = s.sp := rfl
@[simp] theorem State.updateGate_stack : s.updateGate.stack = s.stack := rfl
@[simp] theorem State.updateGate_dt : s.updateGate.dt = s.dt := rfl
@[simp] theorem State.updateGate_st : s.updateGate.st = s.st := rfl
@[simp] theorem State.updateGate_keys : s.updateGate.keys = s.keys := rfl
@[simp] theorem State.updateGate_fb : s.updateGate.fb = s.fb := rfl
@[simp] theorem State.updateGate_mem : s.updateGate.mem = s.mem := rfl
@[simp] theorem State.updateGate_run : s.updateGate.run = s.run := rfl
@[simp] theorem State.updateGate_phase : s.updateGate.phase = s.phase := rfl
@[simp] theorem State.updateGate_frameOut : s.updateGate.frameOut = s.frameOut := rfl
@[simp] theorem State.updateGate_toneActive : s.updateGate.toneActive = some (decide (0 < s.st.toNat)) := rfl
@[simp] theorem State.updateGate_env : s.updateGate.env = s.env := rfl
@[simp] theorem State.updateGate_cfg : s.updateGate.cfg = s.cfg := rfl
@[simp] theorem State.updateGate_V (r : Reg) : s.updateGate.V r = s.V r := rfl
@[simp] theorem State.updateGate_memRead (addr : Nat) : s.updateGate.memRead addr = s.memRead addr := rfl
@[simp] theorem State.updateGate_fetch : s.updateGate.fetch = s.fetch := rfl

/-! ### endFrame -/

@[simp] theorem State.endFrame_v : s.endFrame.v = s.v := rfl
@[simp] theorem State.endFrame_i : s.endFrame.i = s.i := rfl
@[simp] theorem State.endFrame_pc : s.endFrame.pc = s.pc := rfl
@[simp] theorem State.endFrame_sp : s.endFrame.sp = s.sp := rfl
@[simp] theorem State.endFrame_stack : s.endFrame.stack = s.stack := rfl
@[simp] theorem State.endFrame_dt : s.endFrame.dt = tick s.dt := rfl
@[simp] theorem State.endFrame_st : s.endFrame.st = tick s.st := rfl
@[simp] theorem State.endFrame_keys : s.endFrame.keys = s.keys := rfl
@[simp] theorem State.endFrame_fb : s.endFrame.fb = s.fb := rfl
@[simp] theorem State.endFrame_mem : s.endFrame.mem = s.mem := rfl
@[simp] theorem State.endFrame_run : s.endFrame.run = s.run := rfl
@[simp] theorem State.endFrame_phase : s.endFrame.phase = 0 := rfl
@[simp] theorem State.endFrame_frameOut : s.endFrame.frameOut = some s.fb := rfl
@[simp] theorem State.endFrame_toneActive : s.endFrame.toneActive = some (decide (0 < (tick s.st).toNat)) := rfl
@[simp] theorem State.endFrame_env : s.endFrame.env = s.env := rfl
@[simp] theorem State.endFrame_cfg : s.endFrame.cfg = s.cfg := rfl
@[simp] theorem State.endFrame_V (r : Reg) : s.endFrame.V r = s.V r := rfl
@[simp] theorem State.endFrame_memRead (addr : Nat) : s.endFrame.memRead addr = s.memRead addr := rfl
@[simp] theorem State.endFrame_fetch : s.endFrame.fetch = s.fetch := rfl

/-! ### A register write, read back (R20) -/

theorem State.V_setV (x : Reg) (b : Byte) (r : Reg) : (s.setV x b).V r = if r = x then b else s.V r := by
  by_cases h : r = x
  · subst h; simp [State.V]
  · have : x.val ≠ r.val := fun e => h (Fin.ext e.symm)
    simp [State.V, h, this]

@[simp] theorem State.V_setV_same (x : Reg) (b : Byte) : (s.setV x b).V x = b := by simp [State.V_setV]

theorem State.V_setV_ne {x r : Reg} (b : Byte) (h : r ≠ x) : (s.setV x b).V r = s.V r := by simp [State.V_setV, h]

/-- Two states that agree on every register hold the same register file. -/
theorem State.v_ext {s t : State} (h : ∀ r, s.V r = t.V r) : s.v = t.v := by
  apply Vector.ext
  intro k hk
  exact h ⟨k, hk⟩

end Sys2Proof.Machine
end

