-- ==== Sys2Proof/Laws/Memory.lean ====
section
/-! SUPPORT. Memory: reading back a write, and that every memory operation keeps the canonical form. -/

namespace Sys2Proof.Machine

/-! ### Reads after writes -/

theorem Memory.read_cons (m : Memory) (k a : Nat) (b : Byte) (h : m.read k = Memory.background k) :
    (Memory.cons k b m).read a = if a = k then b else m.read a := by
  unfold Memory.cons
  split
  · next hb => split
               · next e => rw [e, h, hb]
               · rfl
  · simp only [Memory.read, eq_comm]

theorem Memory.wfFrom_mono {lo lo' : Nat} {m : Memory} (hle : lo' ≤ lo) (h : Memory.wfFrom lo m = true) :
    Memory.wfFrom lo' m = true := by
  cases m with
  | nil => rfl
  | cons c m => simp_all [Memory.wfFrom]; omega

theorem Memory.read_of_lt {lo a : Nat} {m : Memory} (h : Memory.wfFrom lo m = true) (ha : a < lo) :
    m.read a = Memory.background a := by
  induction m generalizing lo with
  | nil => rfl
  | cons c m ih =>
    simp only [Memory.wfFrom, Bool.and_eq_true, decide_eq_true_eq] at h
    rw [Memory.read, if_neg (by omega), ih h.2 (by omega)]

theorem Memory.read_write_from {lo : Nat} {m : Memory} (h : Memory.wfFrom lo m = true) (k a : Nat) (b : Byte) :
    (m.write k b).read a = if a = k then b else m.read a := by
  induction m generalizing lo with
  | nil => exact Memory.read_cons [] k a b rfl
  | cons c m ih =>
    obtain ⟨k', c⟩ := c
    simp only [Memory.wfFrom, Bool.and_eq_true, decide_eq_true_eq] at h
    unfold Memory.write
    split
    · next hk =>
      refine Memory.read_cons _ k a b ?_
      rw [Memory.read, if_neg (by omega), Memory.read_of_lt h.2 (by omega)]
    · split
      · next hk he =>
        subst he
        rw [Memory.read_cons _ _ _ _ (Memory.read_of_lt h.2 (by omega)), Memory.read]
        split <;> [rfl; rw [if_neg (by omega)]]
      · simp only [Memory.read, ih h.2]
        split <;> [rw [if_neg (by omega)]; rfl]

/-- A read after a write: the byte written at that address, the byte held before at every other (R57). -/
theorem Memory.read_write {m : Memory} (h : m.wf = true) (k a : Nat) (b : Byte) :
    (m.write k b).read a = if a = k then b else m.read a := Memory.read_write_from h k a b

/-! ### The canonical form is kept -/

theorem Memory.wfFrom_cons {lo k : Nat} {m : Memory} {b : Byte} (h : Memory.wfFrom (k + 1) m = true) (hlo : lo ≤ k)
    (hk : k < memSize) : Memory.wfFrom lo (Memory.cons k b m) = true := by
  unfold Memory.cons
  split
  · exact Memory.wfFrom_mono (by omega) h
  · simp_all [Memory.wfFrom]

theorem Memory.wfFrom_write {lo k : Nat} {m : Memory} (b : Byte) (h : Memory.wfFrom lo m = true) (hlo : lo ≤ k)
    (hk : k < memSize) : Memory.wfFrom lo (m.write k b) = true := by
  induction m generalizing lo with
  | nil => exact Memory.wfFrom_cons rfl hlo hk
  | cons c m ih =>
    obtain ⟨k', c⟩ := c
    have h' := h
    simp only [Memory.wfFrom, Bool.and_eq_true, decide_eq_true_eq] at h
    unfold Memory.write
    split
    · next hlt =>
      refine Memory.wfFrom_cons ?_ hlo hk
      simp only [Memory.wfFrom, Bool.and_eq_true, decide_eq_true_eq]
      exact ⟨⟨⟨by omega, h.1.1.2⟩, h.1.2⟩, h.2⟩
    · split
      · next he => subst he; exact Memory.wfFrom_cons h.2 hlo hk
      · simp only [Memory.wfFrom, Bool.and_eq_true, decide_eq_true_eq]
        exact ⟨h.1, ih h.2 (by omega)⟩

/-- A write below 4096 keeps the canonical form. -/
theorem Memory.wf_write {m : Memory} (h : m.wf = true) {k : Nat} (b : Byte) (hk : k < memSize) :
    (m.write k b).wf = true := Memory.wfFrom_write b h (Nat.zero_le k) hk

/-- The empty list, memory at reset, has the canonical form. -/
theorem Memory.wf_nil : Memory.wf [] = true := rfl

/-- Every cell of a canonical memory above an address is at that address or higher. -/
theorem Memory.le_of_mem {lo : Nat} {m : Memory} (h : Memory.wfFrom lo m = true) {c : Host.Cell} (hc : c ∈ m) :
    lo ≤ c.1 := by
  induction m generalizing lo with
  | nil => cases hc
  | cons d m ih =>
    simp only [Memory.wfFrom, Bool.and_eq_true, decide_eq_true_eq] at h
    rcases List.mem_cons.1 hc with rfl | hm
    · exact h.1.1.1
    · have := ih h.2 hm; omega

/-- Canonical memories that read alike everywhere are the same list. -/
theorem Memory.ext_from {lo : Nat} {m m' : Memory} (h : Memory.wfFrom lo m = true) (h' : Memory.wfFrom lo m' = true)
    (hr : ∀ a, m.read a = m'.read a) : m = m' := by
  induction m generalizing lo m' with
  | nil =>
    cases m' with
    | nil => rfl
    | cons c m' =>
      simp only [Memory.wfFrom, Bool.and_eq_true, decide_eq_true_eq] at h'
      exact absurd (by simpa [Memory.read] using (hr c.1).symm) h'.1.2
  | cons c m ih =>
    simp only [Memory.wfFrom, Bool.and_eq_true, decide_eq_true_eq] at h
    cases m' with
    | nil => exact absurd (by simpa [Memory.read] using hr c.1) h.1.2
    | cons c' m' =>
      simp only [Memory.wfFrom, Bool.and_eq_true, decide_eq_true_eq] at h'
      obtain ⟨k, b⟩ := c
      obtain ⟨k', b'⟩ := c'
      have hk : k = k' := by
        rcases Nat.lt_trichotomy k k' with hlt | he | hlt
        · have := hr k
          rw [Memory.read, if_pos rfl, Memory.read, if_neg (by omega), Memory.read_of_lt h'.2 (by omega)] at this
          exact absurd this h.1.2
        · exact he
        · have := hr k'
          rw [Memory.read, if_neg (by omega), Memory.read_of_lt h.2 (by omega), Memory.read, if_pos rfl] at this
          exact absurd this.symm h'.1.2
      subst hk
      have hb : b = b' := by simpa [Memory.read] using hr k
      subst hb
      rw [ih h.2 h'.2]
      intro a
      by_cases ha : a < k + 1
      · rw [Memory.read_of_lt h.2 ha, Memory.read_of_lt h'.2 ha]
      · have := hr a
        rwa [Memory.read, if_neg (by omega), Memory.read, if_neg (by omega)] at this

/-- Equal memories are equal data. -/
theorem Memory.ext {m m' : Memory} (h : m.wf = true) (h' : m'.wf = true) (hr : ∀ a, m.read a = m'.read a) : m = m' :=
  Memory.ext_from h h' hr

/-! ### The accessors of State (R51) -/

theorem State.memRead_memWrite {s : State} (h : s.mem.wf = true) (k a : Nat) (b : Byte) :
    (s.memWrite k b).memRead a = if a % memSize = k % memSize then b else s.memRead a :=
  Memory.read_write h _ _ _

theorem State.wf_memWrite {s : State} (h : s.mem.wf = true) (k : Nat) (b : Byte) : (s.memWrite k b).mem.wf = true :=
  Memory.wf_write h b (Nat.mod_lt _ (by decide))

theorem State.wf_memWriteAll {s : State} (h : s.mem.wf = true) (k : Nat) (bs : List Byte) :
    (s.memWriteAll k bs).mem.wf = true := by
  induction bs generalizing s k with
  | nil => exact h
  | cons b bs ih => exact ih (State.wf_memWrite h k b) (k + 1)

/-- Writing bytes touches memory alone. -/
theorem State.memWriteAll_eq (s : State) (k : Nat) (bs : List Byte) :
    s.memWriteAll k bs = { s with mem := (s.memWriteAll k bs).mem } := by
  induction bs generalizing s k with
  | nil => rfl
  | cons b bs ih => exact ih (s.memWrite k b) (k + 1)

/-- An address outside the bytes written reads as before. -/
theorem State.memRead_memWriteAll_of_ne {s : State} (h : s.mem.wf = true) (k a : Nat) (bs : List Byte)
    (ha : ∀ j, j < bs.length → a % memSize ≠ (k + j) % memSize) : (s.memWriteAll k bs).memRead a = s.memRead a := by
  induction bs generalizing s k with
  | nil => rfl
  | cons b bs ih =>
    rw [State.memWriteAll, ih (State.wf_memWrite h k b) (k + 1), State.memRead_memWrite h,
      if_neg (by simpa using ha 0 (by simp))]
    intro j hj
    have := ha (j + 1) (by simpa using hj)
    rwa [show k + 1 + j = k + (j + 1) by omega]

/-- At most 4096 bytes written from an address: the j-th reads back at the j-th address. -/
theorem State.memRead_memWriteAll {s : State} (h : s.mem.wf = true) (k : Nat) (bs : List Byte) (hlen : bs.length ≤ memSize)
    (j : Nat) (hj : j < bs.length) : (s.memWriteAll k bs).memRead (k + j) = bs[j] := by
  induction bs generalizing s k j with
  | nil => simp at hj
  | cons b bs ih =>
    simp only [List.length_cons] at hlen hj
    cases j with
    | zero =>
      rw [State.memWriteAll, State.memRead_memWriteAll_of_ne (State.wf_memWrite h k b), State.memRead_memWrite h,
        if_pos (by simp), List.getElem_cons_zero]
      intro i hi
      simp only [memSize] at *
      omega
    | succ j =>
      rw [State.memWriteAll, List.getElem_cons_succ, show k + (j + 1) = k + 1 + j by omega]
      exact ih (State.wf_memWrite h k b) (k + 1) (by omega) j (by omega)

end Sys2Proof.Machine
end

