-- ==== Sys2Proof/Laws/Boot.lean ====
section
/-! SUPPORT. Reset with an image (spec/70_reset_and_hazards.md R230): what it is made of, for the statements about its memory. -/

namespace Sys2Proof.Machine

/-- Before font and image no byte is listed. -/
theorem State.blank_wf (cfg : Config) (env : Env) : (State.blank cfg env).mem.wf = true := rfl

/-- Above the font an unlisted address reads as 0 (R37). -/
theorem Memory.background_of_le {a : Nat} (h : 80 ≤ a) : Memory.background a = 0 := by
  simp [Memory.background, h]

/-- With supported parameters and an image that fits, reset is the blank state with the font and then the image stored. -/
theorem boot_eq {cfg : Config} (env : Env) {rom : List Byte} (hc : cfg.supported = true) (hl : rom.length ≤ romMax) :
    boot cfg env rom =
      .next (((State.blank cfg env).memWriteAll 0 cfg.font.toList).memWriteAll progBase rom) := by
  rw [boot, if_neg (by omega), if_pos hc]

/-- The memory that reset leaves is in its canonical form. -/
theorem boot_mem_wf (cfg : Config) (env : Env) (rom : List Byte) :
    (((State.blank cfg env).memWriteAll 0 cfg.font.toList).memWriteAll progBase rom).mem.wf = true :=
  State.wf_memWriteAll (State.wf_memWriteAll (State.blank_wf cfg env) _ _) _ _

end Sys2Proof.Machine
end

