-- ==== Sys2Proof/Laws/Display.lean ====
section
/-! SUPPORT. The display: a cell read after a cell is XORed, and what one pixel, one row and a whole sprite do to every
cell and to the collision. -/

namespace Sys2Proof.Machine

/-- Displays that agree on every cell are the same data. -/
theorem Display.ext {d e : Display} (h : ∀ cx, cx < 64 → ∀ cy, cy < 32 → d.get cx cy = e.get cx cy) : d = e := by
  apply Vector.ext
  intro cy hy
  apply BitVec.eq_of_getLsbD_eq
  intro cx hx
  simpa [Display.get, dispH, hy] using h cx hx cy hy

@[simp] theorem Display.get_blank (cx cy : Nat) : Display.blank.get cx cy = false := by
  unfold Display.get; split <;> simp [Display.blank]

/-- A cell after the cell (`cx`, `cy`), on the screen, is XORed with a pixel. -/
theorem Display.get_xorCell (d : Display) {cx cy : Nat} (hx : cx < 64) (hy : cy < 32) (p : Bool) (x y : Nat) :
    (d.xorCell cx cy p).get x y = (d.get x y ^^ (decide (x = cx ∧ y = cy) && p)) := by
  unfold Display.xorCell Display.get
  by_cases h : y < 32
  · by_cases e : y = cy
    · subst e
      cases p
      · simp [dispH, h]
      · have : (BitVec.ofBool true).setWidth 64 <<< cx = BitVec.twoPow 64 cx := by
          apply BitVec.eq_of_getLsbD_eq
          intro i hi
          simp [BitVec.getLsbD_twoPow]
          by_cases q : i = cx
          · subst q; simp [hi]
          · by_cases q2 : i < cx
            · simp [q2]; omega
            · have : i - cx ≠ 0 := by omega
              simp [hi, q2, this]; omega
        simp only [dispH, h, dite_true, Vector.getElem_set_self, BitVec.getLsbD_xor, this, BitVec.getLsbD_twoPow]
        by_cases q : x = cx
        · subst q; simp [hx]
        · have : cx ≠ x := fun h => q h.symm
          simp [q, this]
    · have e' : cy ≠ y := fun q => e q.symm
      simp [dispH, h, hy, e, e']
  · simp [dispH, h]
    omega

/-- The pixel that a row from column `sx` of row `cy` puts on the cell (`x`, `y`), counting its first `m` columns. -/
def rowBit (b : Byte) (sx cy m x y : Nat) : Bool :=
  decide (y = cy ∧ sx ≤ x ∧ x < sx + m) && b.getLsbD (7 - (x - sx))

/-- One pixel: the cells of the screen after it, and the collision. -/
theorem drawPixel_get (acc : Display × Bool) (cx cy : Nat) (p : Bool) {x y : Nat} (hx : x < 64) (hy : y < 32) :
    (drawPixel acc cx cy p).1.get x y = (acc.1.get x y ^^ (decide (x = cx ∧ y = cy) && p)) := by
  unfold drawPixel
  split
  · next h =>
    have : ¬(x = cx ∧ y = cy) := by simp only [dispW, dispH] at h; omega
    simp [this]
  · next h =>
    simp only [dispW, dispH] at h
    exact Display.get_xorCell acc.1 (by omega) (by omega) p x y

theorem drawPixel_hit (acc : Display × Bool) (cx cy : Nat) (p : Bool) :
    (drawPixel acc cx cy p).2 = true ↔
      acc.2 = true ∨ (cx < 64 ∧ cy < 32 ∧ acc.1.get cx cy = true ∧ p = true) := by
  unfold drawPixel
  split
  · next h => simp only [dispW, dispH] at h; constructor
              · exact .inl
              · rintro (h' | h')
                · exact h'
                · omega
  · next h =>
    simp only [dispW, dispH, not_or, not_le] at h
    simp [h]

/-- The first `m` columns of a row. -/
def drawCols (acc : Display × Bool) (sx cy : Nat) (b : Byte) (m : Nat) : Display × Bool :=
  (List.range m).foldl (fun acc col => drawPixel acc (sx + col) cy (spritePixel b col)) acc

theorem drawRow_eq_drawCols (acc : Display × Bool) (sx cy : Nat) (b : Byte) :
    drawRow acc sx cy b = drawCols acc sx cy b 8 := rfl

theorem drawCols_succ (acc : Display × Bool) (sx cy : Nat) (b : Byte) (m : Nat) :
    drawCols acc sx cy b (m + 1) = drawPixel (drawCols acc sx cy b m) (sx + m) cy (spritePixel b m) := by
  simp [drawCols, List.range_succ]

theorem drawCols_get (acc : Display × Bool) (sx cy : Nat) (b : Byte) (m : Nat) {x y : Nat} (hx : x < 64) (hy : y < 32) :
    (drawCols acc sx cy b m).1.get x y = (acc.1.get x y ^^ rowBit b sx cy m x y) := by
  induction m with
  | zero =>
    have : rowBit b sx cy 0 x y = false := by simp [rowBit]
    simp [drawCols, this]
  | succ m ih =>
    rw [drawCols_succ, drawPixel_get _ _ _ _ hx hy, ih]
    unfold rowBit spritePixel
    by_cases e : x = sx + m ∧ y = cy
    · obtain ⟨rfl, rfl⟩ := e
      simp
    · have : (y = cy ∧ sx ≤ x ∧ x < sx + (m + 1)) ↔ (y = cy ∧ sx ≤ x ∧ x < sx + m) := by omega
      simp [e, this]

theorem drawCols_hit (acc : Display × Bool) (sx cy : Nat) (b : Byte) (m : Nat) :
    (drawCols acc sx cy b m).2 = true ↔
      acc.2 = true ∨ ∃ x, x < 64 ∧ cy < 32 ∧ acc.1.get x cy = true ∧ rowBit b sx cy m x cy = true := by
  induction m with
  | zero =>
    have : ∀ x, rowBit b sx cy 0 x cy = false := by intro x; simp [rowBit]
    simp [drawCols, this]
  | succ m ih =>
    rw [drawCols_succ, drawPixel_hit, ih]
    constructor
    · rintro ((h | ⟨x, h1, h2, h3, h4⟩) | ⟨h1, h2, h3, h4⟩)
      · exact .inl h
      · refine .inr ⟨x, h1, h2, h3, ?_⟩
        simp only [rowBit, Bool.and_eq_true, decide_eq_true_eq, true_and] at h4 ⊢
        exact ⟨by omega, h4.2⟩
      · rw [drawCols_get _ _ _ _ _ h1 h2] at h3
        have : rowBit b sx cy m (sx + m) cy = false := by simp [rowBit]
        refine .inr ⟨sx + m, h1, h2, by simpa [this] using h3, ?_⟩
        simpa [rowBit, spritePixel] using h4
    · rintro (h | ⟨x, h1, h2, h3, h4⟩)
      · exact .inl (.inl h)
      · simp only [rowBit, Bool.and_eq_true, decide_eq_true_eq, true_and] at h4
        by_cases e : x = sx + m
        · subst e
          have : rowBit b sx cy m (sx + m) cy = false := by simp [rowBit]
          exact .inr ⟨h1, h2, by rw [drawCols_get _ _ _ _ _ h1 h2, this]; simpa using h3, by simpa [spritePixel] using h4.2⟩
        · refine .inl (.inr ⟨x, h1, h2, h3, ?_⟩)
          simp only [rowBit, Bool.and_eq_true, decide_eq_true_eq, true_and]
          exact ⟨by omega, h4.2⟩

/-- The first `n` rows of the sprite at I. -/
theorem State.drawSprite_succ (s : State) (sx sy n : Nat) :
    s.drawSprite sx sy (n + 1) = drawRow (s.drawSprite sx sy n) sx (sy + n) (s.memRead (s.ea n)) := by
  simp [State.drawSprite, List.range_succ]

@[simp] theorem State.drawSprite_zero (s : State) (sx sy : Nat) : s.drawSprite sx sy 0 = (s.fb, false) := rfl

/-- The pixel that `n` rows of the sprite put on a cell. -/
def State.rowsBit (s : State) (sx sy n cx cy : Nat) : Bool :=
  decide (sy ≤ cy ∧ cy < sy + n) && rowBit (s.memRead (s.ea (cy - sy))) sx cy 8 cx cy

theorem State.drawSprite_get (s : State) (sx sy n : Nat) {x y : Nat} (hx : x < 64) (hy : y < 32) :
    (s.drawSprite sx sy n).1.get x y = (s.fb.get x y ^^ s.rowsBit sx sy n x y) := by
  induction n with
  | zero =>
    have : s.rowsBit sx sy 0 x y = false := by simp [State.rowsBit]
    simp [this]
  | succ n ih =>
    rw [State.drawSprite_succ, drawRow_eq_drawCols, drawCols_get _ _ _ _ _ hx hy, ih]
    unfold State.rowsBit
    by_cases e : y = sy + n
    · subst e
      simp
    · have h1 : (sy ≤ y ∧ y < sy + (n + 1)) ↔ (sy ≤ y ∧ y < sy + n) := by omega
      have h2 : rowBit (s.memRead (s.ea n)) sx (sy + n) 8 x y = false := by simp [rowBit, e]
      simp [h1, h2]

theorem State.drawSprite_hit (s : State) (sx sy n : Nat) :
    (s.drawSprite sx sy n).2 = true ↔
      ∃ x, x < 64 ∧ ∃ y, y < 32 ∧ s.fb.get x y = true ∧ s.rowsBit sx sy n x y = true := by
  induction n with
  | zero =>
    have : ∀ x y, s.rowsBit sx sy 0 x y = false := by intro x y; simp [State.rowsBit]
    simp [this]
  | succ n ih =>
    rw [State.drawSprite_succ, drawRow_eq_drawCols, drawCols_hit, ih]
    have key : ∀ y, y ≠ sy + n → ((sy ≤ y ∧ y < sy + (n + 1)) ↔ (sy ≤ y ∧ y < sy + n)) := by intro y h; omega
    constructor
    · rintro (⟨x, h1, y, h2, h3, h4⟩ | ⟨x, h1, h2, h3, h4⟩)
      · refine ⟨x, h1, y, h2, h3, ?_⟩
        unfold State.rowsBit at h4 ⊢
        by_cases e : y = sy + n
        · subst e; simp at h4
        · simpa [key y e] using h4
      · have : s.rowsBit sx sy n x (sy + n) = false := by simp [State.rowsBit]
        rw [State.drawSprite_get _ _ _ _ h1 h2, this] at h3
        exact ⟨x, h1, sy + n, h2, by simpa using h3, by simpa [State.rowsBit] using h4⟩
    · rintro ⟨x, h1, y, h2, h3, h4⟩
      by_cases e : y = sy + n
      · subst e
        have : s.rowsBit sx sy n x (sy + n) = false := by simp [State.rowsBit]
        refine .inr ⟨x, h1, h2, by rw [State.drawSprite_get _ _ _ _ h1 h2, this]; simpa using h3, ?_⟩
        simpa [State.rowsBit] using h4
      · refine .inl ⟨x, h1, y, h2, h3, ?_⟩
        unfold State.rowsBit at h4 ⊢
        simpa [key y e] using h4

end Sys2Proof.Machine
end

