-- ==== Sys2Proof/Laws/Encoding.lean ====
section
/-! SUPPORT. The fields of a word as numbers, the fields of a word of each format (R71, R72), and a word masked by a row of the
opcode map. -/

namespace Sys2Proof

/-! ### Fields as numbers (R71) -/

theorem fieldC_toNat (op : Word) : (fieldC op).toNat = op.toNat / 4096 := by
  have := op.isLt
  simp only [fieldC, BitVec.extractLsb'_toNat, Nat.shiftRight_eq_div_pow]
  omega

theorem fieldX_val (op : Word) : (fieldX op).val = op.toNat / 256 % 16 := by
  simp only [fieldX, BitVec.val_toFin, BitVec.extractLsb'_toNat, Nat.shiftRight_eq_div_pow]

theorem fieldY_val (op : Word) : (fieldY op).val = op.toNat / 16 % 16 := by
  simp only [fieldY, BitVec.val_toFin, BitVec.extractLsb'_toNat, Nat.shiftRight_eq_div_pow]

theorem fieldN_val (op : Word) : (fieldN op).val = op.toNat % 16 := by
  simp only [fieldN, BitVec.val_toFin, BitVec.extractLsb'_toNat, Nat.shiftRight_eq_div_pow]
  omega

theorem fieldKK_toNat (op : Word) : (fieldKK op).toNat = op.toNat % 256 := by
  simp only [fieldKK, BitVec.extractLsb'_toNat, Nat.shiftRight_eq_div_pow]
  omega

theorem fieldNNN_toNat (op : Word) : (fieldNNN op).toNat = op.toNat % 4096 := by
  simp only [fieldNNN, BitVec.extractLsb'_toNat, Nat.shiftRight_eq_div_pow]
  omega

/-! ### Words of a format as numbers (R72) -/

theorem encNNN_toNat {c : Nat} (hc : c < 16) (nnn : Addr) : (encNNN c nnn).toNat = c * 4096 + nnn.toNat := by
  have := nnn.isLt
  simp only [encNNN, BitVec.toNat_ofNat]
  omega

theorem encXKK_toNat {c : Nat} (hc : c < 16) (x : Reg) (kk : Byte) :
    (encXKK c x kk).toNat = c * 4096 + x.val * 256 + kk.toNat := by
  have := x.isLt
  have := kk.isLt
  simp only [encXKK, BitVec.toNat_ofNat]
  omega

theorem encXYN_toNat {c : Nat} (hc : c < 16) (x y n : Fin 16) :
    (encXYN c x y n).toNat = c * 4096 + x.val * 256 + y.val * 16 + n.val := by
  have := x.isLt
  have := y.isLt
  have := n.isLt
  simp only [encXYN, BitVec.toNat_ofNat]
  omega

/-! ### The fields of a word of a format -/

theorem fieldC_encNNN {c : Nat} (hc : c < 16) (nnn : Addr) : (fieldC (encNNN c nnn)).toNat = c := by
  have := nnn.isLt
  rw [fieldC_toNat, encNNN_toNat hc]; omega

theorem fieldNNN_encNNN {c : Nat} (hc : c < 16) (nnn : Addr) : fieldNNN (encNNN c nnn) = nnn := by
  have := nnn.isLt
  apply BitVec.eq_of_toNat_eq
  rw [fieldNNN_toNat, encNNN_toNat hc]; omega

theorem fieldC_encXKK {c : Nat} (hc : c < 16) (x : Reg) (kk : Byte) : (fieldC (encXKK c x kk)).toNat = c := by
  have := x.isLt
  have := kk.isLt
  rw [fieldC_toNat, encXKK_toNat hc]; omega

theorem fieldX_encXKK {c : Nat} (hc : c < 16) (x : Reg) (kk : Byte) : fieldX (encXKK c x kk) = x := by
  have := x.isLt
  have := kk.isLt
  apply Fin.ext
  rw [fieldX_val, encXKK_toNat hc]; omega

theorem fieldKK_encXKK {c : Nat} (hc : c < 16) (x : Reg) (kk : Byte) : fieldKK (encXKK c x kk) = kk := by
  have := x.isLt
  have := kk.isLt
  apply BitVec.eq_of_toNat_eq
  rw [fieldKK_toNat, encXKK_toNat hc]; omega

theorem fieldC_encXYN {c : Nat} (hc : c < 16) (x y n : Fin 16) : (fieldC (encXYN c x y n)).toNat = c := by
  have := x.isLt
  have := y.isLt
  have := n.isLt
  rw [fieldC_toNat, encXYN_toNat hc]; omega

theorem fieldX_encXYN {c : Nat} (hc : c < 16) (x y n : Fin 16) : fieldX (encXYN c x y n) = x := by
  have := x.isLt
  have := y.isLt
  have := n.isLt
  apply Fin.ext
  rw [fieldX_val, encXYN_toNat hc]; omega

theorem fieldY_encXYN {c : Nat} (hc : c < 16) (x y n : Fin 16) : fieldY (encXYN c x y n) = y := by
  have := x.isLt
  have := y.isLt
  have := n.isLt
  apply Fin.ext
  rw [fieldY_val, encXYN_toNat hc]; omega

theorem fieldN_encXYN {c : Nat} (hc : c < 16) (x y n : Fin 16) : fieldN (encXYN c x y n) = n := by
  have := x.isLt
  have := y.isLt
  have := n.isLt
  apply Fin.ext
  rw [fieldN_val, encXYN_toNat hc]; omega

/-! ### A word is its fields -/

theorem encNNN_fields (op : Word) : encNNN (fieldC op).toNat (fieldNNN op) = op := by
  have := op.isLt
  apply BitVec.eq_of_toNat_eq
  rw [encNNN_toNat (fieldC op).isLt, fieldC_toNat, fieldNNN_toNat]; omega

theorem encXKK_fields (op : Word) : encXKK (fieldC op).toNat (fieldX op) (fieldKK op) = op := by
  have := op.isLt
  apply BitVec.eq_of_toNat_eq
  rw [encXKK_toNat (fieldC op).isLt, fieldC_toNat, fieldX_val, fieldKK_toNat]; omega

theorem encXYN_fields (op : Word) : encXYN (fieldC op).toNat (fieldX op) (fieldY op) (fieldN op) = op := by
  have := op.isLt
  apply BitVec.eq_of_toNat_eq
  rw [encXYN_toNat (fieldC op).isLt, fieldC_toNat, fieldX_val, fieldY_val, fieldN_val]; omega

/-- The two bytes of a word in memory order give the word back (R54). -/
theorem wordOfBytes_bytesOfWord (op : Word) : wordOfBytes (op.extractLsb' 8 8) (op.extractLsb' 0 8) = op := by
  have := op.isLt
  apply BitVec.eq_of_toNat_eq
  simp only [wordOfBytes, BitVec.toNat_ofNat, BitVec.extractLsb'_toNat, Nat.shiftRight_eq_div_pow]
  omega

/-! ### A word under a row's mask (R75) -/

/-- A word under a mask, bit by bit. -/
theorem and_mask_toNat (op mask : Word) (n : Nat) (hn : n < 65536)
    (h : ∀ j, j < 16 → (op.toNat.testBit j && mask.getLsbD j) = n.testBit j) : (op &&& mask).toNat = n := by
  have : op &&& mask = BitVec.ofNat 16 n := by
    apply BitVec.eq_of_getLsbD_eq
    intro j hj
    rw [BitVec.getLsbD_and, BitVec.getLsbD_ofNat, ← h j hj]
    simp [BitVec.getLsbD, hj]
  rw [this, BitVec.toNat_ofNat]
  omega

theorem mask_F000 (op : Word) : (op &&& 0xF000).toNat = 2 ^ 12 * (op.toNat / 2 ^ 12) + 0 := by
  have := op.isLt
  refine and_mask_toNat _ _ _ (by omega) fun j hj => ?_
  rw [Nat.testBit_two_pow_mul_add _ (by decide)]
  simp only [Nat.testBit_div_two_pow]
  interval_cases j <;> simp

theorem mask_F00F (op : Word) : (op &&& 0xF00F).toNat = 2 ^ 12 * (op.toNat / 2 ^ 12) + op.toNat % 2 ^ 4 := by
  have := op.isLt
  refine and_mask_toNat _ _ _ (by omega) fun j hj => ?_
  rw [Nat.testBit_two_pow_mul_add _ (by omega)]
  simp only [Nat.testBit_div_two_pow, Nat.testBit_mod_two_pow]
  interval_cases j <;> simp

theorem mask_F0FF (op : Word) : (op &&& 0xF0FF).toNat = 2 ^ 12 * (op.toNat / 2 ^ 12) + op.toNat % 2 ^ 8 := by
  have := op.isLt
  refine and_mask_toNat _ _ _ (by omega) fun j hj => ?_
  rw [Nat.testBit_two_pow_mul_add _ (by omega)]
  simp only [Nat.testBit_div_two_pow, Nat.testBit_mod_two_pow]
  interval_cases j <;> simp

end Sys2Proof
end

