-- ==== Sys2Proof/Laws/Ops.lean ====
section
/-! SUPPORT. The shared operations on registers, stack, keys and blocks: one lemma each that says what it does. -/

namespace Sys2Proof.Machine

/-! ### Flags (R21, R133) -/

theorem flagByte_toNat (c : Bool) : (flagByte c).toNat = if c then 1 else 0 := by cases c <;> rfl

/-- The result in V[x] unless x = 15, the flag in VF, every other register as it was. -/
theorem State.V_setResultFlag (s : State) (x : Reg) (b : Byte) (c : Bool) (r : Reg) :
    (s.setResultFlag x b c).V r = if r = 15 then flagByte c else if r = x then b else s.V r := by
  simp only [State.setResultFlag, State.V_setV, regF]

/-- Nothing but the register file changes. -/
theorem State.setResultFlag_eq (s : State) (x : Reg) (b : Byte) (c : Bool) :
    s.setResultFlag x b c = { s with v := (s.setResultFlag x b c).v } := rfl

theorem State.V_setLogicResult (s : State) (x : Reg) (b : Byte) (r : Reg) :
    (s.setLogicResult x b).V r =
      if s.cfg.logicResetsVF = true ∧ r = 15 then 0 else if r = x then b else s.V r := by
  unfold State.setLogicResult
  by_cases h : s.cfg.logicResetsVF = true <;> simp [h, State.V_setV, regF]

theorem State.setLogicResult_eq (s : State) (x : Reg) (b : Byte) :
    s.setLogicResult x b = { s with v := (s.setLogicResult x b).v } := by
  unfold State.setLogicResult; split <;> rfl

/-! ### The PC policies (R91) -/

theorem State.skipIf_eq (s : State) (c : Bool) : s.skipIf c = s.setPC (s.pc + if c then 4 else 2) := by
  cases c <;> rfl

/-! ### The return stack (R24, R25) -/

/-- A push either finds the stack full, or writes the next free slot and moves SP up by one. -/
theorem State.push_cases (s : State) (w : Word) :
    (s.sp.val = 16 ∧ s.push w = none) ∨
    ∃ h : s.sp.val < 16, s.push w =
      some { s with stack := s.stack.set s.sp.val w h, sp := ⟨s.sp.val + 1, Nat.succ_lt_succ h⟩ } := by
  by_cases h : s.sp.val < 16
  · exact .inr ⟨h, by simp [State.push, stackDepth, h]⟩
  · exact .inl ⟨by have := s.sp.isLt; omega, by simp [State.push, stackDepth, h]⟩

/-- A pop either finds the stack empty, or gives the entry below SP and moves SP down by one. -/
theorem State.pop_cases (s : State) :
    (s.sp.val = 0 ∧ s.pop = none) ∨
    ∃ h' : s.sp.val - 1 < 16, 0 < s.sp.val ∧ s.pop =
      some (s.stack[s.sp.val - 1], { s with sp := ⟨s.sp.val - 1, Nat.lt_of_le_of_lt (Nat.sub_le _ _) s.sp.isLt⟩ }) := by
  by_cases h : 0 < s.sp.val
  · exact .inr ⟨by have := s.sp.isLt; omega, h, by simp [State.pop, h]⟩
  · exact .inl ⟨by omega, by simp [State.pop, h]⟩

/-! ### The keypad (R175) -/

/-- No key found: none is pressed. -/
theorem State.lowestKey_none {s : State} : s.lowestKey = none ↔ s.keys = 0 := by
  unfold State.lowestKey State.keyDown
  rw [List.find?_eq_none]
  constructor
  · intro h
    apply BitVec.eq_of_getLsbD_eq
    intro k hk
    simpa using h ⟨k, hk⟩ (List.mem_finRange _)
  · intro h k _
    simp [h]

/-- The key found is pressed, and no key below it is. -/
theorem State.lowestKey_some {s : State} {k : Fin 16} (h : s.lowestKey = some k) :
    s.keyDown k.val = true ∧ ∀ j : Fin 16, j < k → s.keyDown j.val = false := by
  unfold State.lowestKey at h
  rw [List.find?_eq_some_iff_append] at h
  obtain ⟨hk, as, bs, hl, has⟩ := h
  refine ⟨hk, fun j hj => ?_⟩
  have hs : (List.finRange 16).Pairwise (· < ·) := List.pairwise_lt_finRange 16
  have hm : j ∈ List.finRange 16 := List.mem_finRange j
  rw [hl] at hs hm
  rcases List.mem_append.1 hm with ha | hb
  · simpa using has j ha
  · rcases List.mem_cons.1 hb with rfl | hb
    · exact absurd hj (lt_irrefl _)
    · have := (List.pairwise_cons.1 (List.pairwise_append.1 hs).2.1).1 j hb
      exact absurd hj (lt_asymm this)

/-! ### Block transfers (R144, R145) -/

theorem mem_regsUpTo {x r : Reg} : r ∈ regsUpTo x ↔ r ≤ x := by simp [regsUpTo]

theorem regsUpTo_length (x : Reg) : (regsUpTo x).length = x.val + 1 := by revert x; decide

/-- The k-th register of the block is register k. -/
theorem regsUpTo_get (x : Reg) (k : Nat) (h : k < (regsUpTo x).length) : ((regsUpTo x)[k]).val = k := by
  have h' : k < x.val + 1 := by rwa [regsUpTo_length] at h
  have key : ∀ x : Reg, ∀ k : Fin 16, ∀ h : k.val < (regsUpTo x).length, ((regsUpTo x)[k.val]).val = k.val := by decide
  exact key x ⟨k, by have := x.isLt; omega⟩ h

/-- The registers of the list hold the bytes at I plus their numbers, every other register is as it was. -/
theorem State.V_loadRegs (s : State) (rs : List Reg) (r : Reg) :
    (s.loadRegs rs).V r = if r ∈ rs then s.memRead (s.ea r.val) else s.V r := by
  unfold State.loadRegs
  induction rs generalizing s with
  | nil => simp
  | cons q rs ih =>
    rw [List.foldl_cons, ih, State.V_setV]
    by_cases hr : r ∈ rs
    · simp [hr, State.ea]
    · by_cases hq : r = q
      · subst hq; simp [hr]
      · simp [hr, hq]

/-- Nothing but the register file changes. -/
theorem State.loadRegs_eq (s : State) (rs : List Reg) : s.loadRegs rs = { s with v := (s.loadRegs rs).v } := by
  unfold State.loadRegs
  induction rs generalizing s with
  | nil => rfl
  | cons q rs ih => rw [List.foldl_cons, ih]; rfl

/-- After a block transfer I is as it was, or moved past the block; nothing else changes. -/
theorem State.afterBlock_eq (s : State) (x : Reg) :
    s.afterBlock x = s.setI (if s.cfg.loadStoreIncI then s.i + BitVec.ofNat 16 (x.val + 1) else s.i) := by
  unfold State.afterBlock; split <;> rfl

end Sys2Proof.Machine
end

