-- ==== Sys2Proof/Laws/PerInstr.lean ====
section
/-! SUPPORT. Statements about every instruction as syntax, one lemma per constructor. -/

namespace Sys2Proof.Laws

theorem masked_NNN {c : Nat} (hc : c < 16) (nnn : Addr) (p : Word) (hp : p.toNat = c * 4096) :
    encNNN c nnn &&& 0xF000 = p := by
  have := nnn.isLt
  apply BitVec.eq_of_toNat_eq
  rw [mask_F000, encNNN_toNat hc]; omega

theorem masked_XKK {c : Nat} (hc : c < 16) (x : Reg) (kk : Byte) (p : Word) (hp : p.toNat = c * 4096) :
    encXKK c x kk &&& 0xF000 = p := by
  have := x.isLt
  have := kk.isLt
  apply BitVec.eq_of_toNat_eq
  rw [mask_F000, encXKK_toNat hc]; omega

theorem masked_X {c : Nat} (hc : c < 16) (x : Reg) (kk : Byte) (p : Word) (hp : p.toNat = c * 4096 + kk.toNat) :
    encXKK c x kk &&& 0xF0FF = p := by
  have := x.isLt
  have := kk.isLt
  apply BitVec.eq_of_toNat_eq
  rw [mask_F0FF, encXKK_toNat hc]; omega

theorem masked_XY {c : Nat} (hc : c < 16) (x y n : Fin 16) (p : Word) (hp : p.toNat = c * 4096 + n.val) :
    encXYN c x y n &&& 0xF00F = p := by
  have := x.isLt
  have := y.isLt
  have := n.isLt
  apply BitVec.eq_of_toNat_eq
  rw [mask_F00F, encXYN_toNat hc]; omega

theorem masked_XYN {c : Nat} (hc : c < 16) (x y n : Fin 16) (p : Word) (hp : p.toNat = c * 4096) :
    encXYN c x y n &&& 0xF000 = p := by
  have := x.isLt
  have := y.isLt
  have := n.isLt
  apply BitVec.eq_of_toNat_eq
  rw [mask_F000, encXYN_toNat hc]; omega

/-- The instruction's word lies in the instruction's row of the opcode map: `op & mask == match` (R75, and R77 for `0nnn`). -/
def TableRow.Statement (i : Instr) : Prop := encode i &&& i.opcodeRow.2 = i.opcodeRow.1

theorem TableRow.cls : TableRow.Statement .cls := rfl

theorem TableRow.ret : TableRow.Statement .ret := rfl

theorem TableRow.jp (nnn : Addr) : TableRow.Statement (.jp nnn) := masked_NNN (by decide) _ _ rfl

theorem TableRow.call (nnn : Addr) : TableRow.Statement (.call nnn) := masked_NNN (by decide) _ _ rfl

theorem TableRow.seImm (x : Reg) (kk : Byte) : TableRow.Statement (.seImm x kk) := masked_XKK (by decide) _ _ _ rfl

theorem TableRow.sneImm (x : Reg) (kk : Byte) : TableRow.Statement (.sneImm x kk) := masked_XKK (by decide) _ _ _ rfl

theorem TableRow.seReg (x y : Reg) : TableRow.Statement (.seReg x y) := masked_XY (by decide) _ _ _ _ rfl

theorem TableRow.ldImm (x : Reg) (kk : Byte) : TableRow.Statement (.ldImm x kk) := masked_XKK (by decide) _ _ _ rfl

theorem TableRow.addImm (x : Reg) (kk : Byte) : TableRow.Statement (.addImm x kk) := masked_XKK (by decide) _ _ _ rfl

theorem TableRow.ldReg (x y : Reg) : TableRow.Statement (.ldReg x y) := masked_XY (by decide) _ _ _ _ rfl

theorem TableRow.orReg (x y : Reg) : TableRow.Statement (.orReg x y) := masked_XY (by decide) _ _ _ _ rfl

theorem TableRow.andReg (x y : Reg) : TableRow.Statement (.andReg x y) := masked_XY (by decide) _ _ _ _ rfl

theorem TableRow.xorReg (x y : Reg) : TableRow.Statement (.xorReg x y) := masked_XY (by decide) _ _ _ _ rfl

theorem TableRow.addReg (x y : Reg) : TableRow.Statement (.addReg x y) := masked_XY (by decide) _ _ _ _ rfl

theorem TableRow.subReg (x y : Reg) : TableRow.Statement (.subReg x y) := masked_XY (by decide) _ _ _ _ rfl

theorem TableRow.shr (x y : Reg) : TableRow.Statement (.shr x y) := masked_XY (by decide) _ _ _ _ rfl

theorem TableRow.subnReg (x y : Reg) : TableRow.Statement (.subnReg x y) := masked_XY (by decide) _ _ _ _ rfl

theorem TableRow.shl (x y : Reg) : TableRow.Statement (.shl x y) := masked_XY (by decide) _ _ _ _ rfl

theorem TableRow.sneReg (x y : Reg) : TableRow.Statement (.sneReg x y) := masked_XY (by decide) _ _ _ _ rfl

theorem TableRow.ldI (nnn : Addr) : TableRow.Statement (.ldI nnn) := masked_NNN (by decide) _ _ rfl

theorem TableRow.jpV0 (nnn : Addr) : TableRow.Statement (.jpV0 nnn) := masked_NNN (by decide) _ _ rfl

theorem TableRow.rnd (x : Reg) (kk : Byte) : TableRow.Statement (.rnd x kk) := masked_XKK (by decide) _ _ _ rfl

theorem TableRow.drw (x y : Reg) (n : Fin 16) : TableRow.Statement (.drw x y n) := masked_XYN (by decide) _ _ _ _ rfl

theorem TableRow.skp (x : Reg) : TableRow.Statement (.skp x) := masked_X (by decide) _ _ _ rfl

theorem TableRow.sknp (x : Reg) : TableRow.Statement (.sknp x) := masked_X (by decide) _ _ _ rfl

theorem TableRow.ldVxDT (x : Reg) : TableRow.Statement (.ldVxDT x) := masked_X (by decide) _ _ _ rfl

theorem TableRow.ldVxK (x : Reg) : TableRow.Statement (.ldVxK x) := masked_X (by decide) _ _ _ rfl

theorem TableRow.ldDTVx (x : Reg) : TableRow.Statement (.ldDTVx x) := masked_X (by decide) _ _ _ rfl

theorem TableRow.ldSTVx (x : Reg) : TableRow.Statement (.ldSTVx x) := masked_X (by decide) _ _ _ rfl

theorem TableRow.addI (x : Reg) : TableRow.Statement (.addI x) := masked_X (by decide) _ _ _ rfl

theorem TableRow.ldF (x : Reg) : TableRow.Statement (.ldF x) := masked_X (by decide) _ _ _ rfl

theorem TableRow.ldB (x : Reg) : TableRow.Statement (.ldB x) := masked_X (by decide) _ _ _ rfl

theorem TableRow.ldMemVx (x : Reg) : TableRow.Statement (.ldMemVx x) := masked_X (by decide) _ _ _ rfl

theorem TableRow.ldVxMem (x : Reg) : TableRow.Statement (.ldVxMem x) := masked_X (by decide) _ _ _ rfl

theorem TableRow.illegal0nnn (nnn : Addr) : TableRow.Statement (.illegal0nnn nnn) := masked_NNN (by decide) _ _ rfl

end Sys2Proof.Laws
end

