-- ==== Sys2Proof/Laws/Step.lean ====
section
/-! SUPPORT. What one step can do (its inversion), what the frame actions around an instruction leave unchanged, and the
induction over a run, once. -/

namespace Sys2Proof.Machine

/-! ### The start of a step (R210, R211, R215) -/

/-- Inside a frame nothing; at a frame boundary a stop, or a poll (with one frame fewer before the shutdown signal). -/
theorem State.beginStep_cases (s : State) :
    (s.phase ≠ 0 ∧ s.beginStep = s) ∨
    (s.phase = 0 ∧ s.env.shutdownIn = some 0 ∧ s.beginStep = { s with run := .stopped }) ∨
    (s.phase = 0 ∧ s.env.shutdownIn ≠ some 0 ∧
      s.beginStep = { s with
        keys := s.env.keypad
        env := { s.env.afterPoll with shutdownIn := s.env.shutdownIn.map (· - 1) } }) := by
  unfold State.beginStep State.beginFrame
  by_cases h : s.phase = 0
  · simp only [h, if_true]
    cases hd : s.env.shutdownIn with
    | none => simp [State.poll, Env.afterPoll, hd, h]
    | some n => cases n <;> simp [State.poll, Env.afterPoll, h]
  · simp [h]

/-- The start of a step touches K, RUN and the environment alone. -/
theorem State.beginStep_eq (s : State) :
    s.beginStep = { s with keys := s.beginStep.keys, run := s.beginStep.run, env := s.beginStep.env } := by
  obtain ⟨-, h⟩ | ⟨-, -, h⟩ | ⟨-, -, h⟩ := s.beginStep_cases <;> rw [h]

@[simp] theorem State.beginStep_v (s : State) : s.beginStep.v = s.v := by rw [s.beginStep_eq]
@[simp] theorem State.beginStep_i (s : State) : s.beginStep.i = s.i := by rw [s.beginStep_eq]
@[simp] theorem State.beginStep_pc (s : State) : s.beginStep.pc = s.pc := by rw [s.beginStep_eq]
@[simp] theorem State.beginStep_sp (s : State) : s.beginStep.sp = s.sp := by rw [s.beginStep_eq]
@[simp] theorem State.beginStep_stack (s : State) : s.beginStep.stack = s.stack := by rw [s.beginStep_eq]
@[simp] theorem State.beginStep_dt (s : State) : s.beginStep.dt = s.dt := by rw [s.beginStep_eq]
@[simp] theorem State.beginStep_st (s : State) : s.beginStep.st = s.st := by rw [s.beginStep_eq]
@[simp] theorem State.beginStep_fb (s : State) : s.beginStep.fb = s.fb := by rw [s.beginStep_eq]
@[simp] theorem State.beginStep_mem (s : State) : s.beginStep.mem = s.mem := by rw [s.beginStep_eq]
@[simp] theorem State.beginStep_phase (s : State) : s.beginStep.phase = s.phase := by rw [s.beginStep_eq]
@[simp] theorem State.beginStep_frameOut (s : State) : s.beginStep.frameOut = s.frameOut := by rw [s.beginStep_eq]
@[simp] theorem State.beginStep_toneActive (s : State) : s.beginStep.toneActive = s.toneActive := by
  rw [s.beginStep_eq]
@[simp] theorem State.beginStep_cfg (s : State) : s.beginStep.cfg = s.cfg := by rw [s.beginStep_eq]
@[simp] theorem State.beginStep_fetch (s : State) : s.beginStep.fetch = s.fetch := by rw [s.beginStep_eq]; rfl
@[simp] theorem State.beginStep_memRead (s : State) (a : Nat) : s.beginStep.memRead a = s.memRead a := by
  rw [s.beginStep_eq]; rfl

/-! ### The end of a step (R195, R205, R210) -/

/-- A raised fault ends the step where it is; else the phase goes up by one, or the frame ends. -/
theorem State.endStep_cases (s : State) :
    (s.run ≠ .running ∧ s.endStep = s) ∨
    (s.run = .running ∧ s.phase + 1 < s.cfg.stepsPerFrame ∧ s.endStep = { s with phase := s.phase + 1 }) ∨
    (s.run = .running ∧ s.cfg.stepsPerFrame ≤ s.phase + 1 ∧ s.endStep = s.endFrame) := by
  unfold State.endStep
  by_cases h : s.run = .running
  · by_cases h' : s.phase + 1 < s.cfg.stepsPerFrame
    · simp [h, h']
    · simp [h, h']; omega
  · simp [h]

/-- The end of a step touches the timers, PHASE and the two outputs alone. -/
theorem State.endStep_eq (s : State) :
    s.endStep = { s with
      dt := s.endStep.dt
      st := s.endStep.st
      phase := s.endStep.phase
      frameOut := s.endStep.frameOut
      toneActive := s.endStep.toneActive } := by
  obtain ⟨-, h⟩ | ⟨-, -, h⟩ | ⟨-, -, h⟩ := s.endStep_cases
  · rw [h]
  · rw [h]
  · rw [h]; rfl

@[simp] theorem State.endStep_v (s : State) : s.endStep.v = s.v := by rw [s.endStep_eq]
@[simp] theorem State.endStep_i (s : State) : s.endStep.i = s.i := by rw [s.endStep_eq]
@[simp] theorem State.endStep_pc (s : State) : s.endStep.pc = s.pc := by rw [s.endStep_eq]
@[simp] theorem State.endStep_sp (s : State) : s.endStep.sp = s.sp := by rw [s.endStep_eq]
@[simp] theorem State.endStep_stack (s : State) : s.endStep.stack = s.stack := by rw [s.endStep_eq]
@[simp] theorem State.endStep_keys (s : State) : s.endStep.keys = s.keys := by rw [s.endStep_eq]
@[simp] theorem State.endStep_fb (s : State) : s.endStep.fb = s.fb := by rw [s.endStep_eq]
@[simp] theorem State.endStep_mem (s : State) : s.endStep.mem = s.mem := by rw [s.endStep_eq]
@[simp] theorem State.endStep_run (s : State) : s.endStep.run = s.run := by rw [s.endStep_eq]
@[simp] theorem State.endStep_env (s : State) : s.endStep.env = s.env := by rw [s.endStep_eq]
@[simp] theorem State.endStep_cfg (s : State) : s.endStep.cfg = s.cfg := by rw [s.endStep_eq]
@[simp] theorem State.endStep_fetch (s : State) : s.endStep.fetch = s.fetch := by rw [s.endStep_eq]; rfl

/-! ### One step -/

/-- An instruction step that gives a next state ran the decoded instruction, or raised `IllegalOpcode`. -/
theorem State.instrStep_cases {s u : State} (h : s.instrStep = .next u) :
    (∃ i, decodeWord s.fetch = .ok i ∧ exec i s = .next u) ∨
    (∃ r, decodeWord s.fetch = .error r ∧ u = s.raise .illegalOpcode s.fetch) := by
  unfold State.instrStep at h
  split at h
  · exact .inl ⟨_, by assumption, h⟩
  · injection h with h
    exact .inr ⟨_, by assumption, h.symm⟩

/-- A step that gives a next state: a stopped machine stays as it is; a running one is stopped at a frame boundary, or runs one
instruction step between the start and the end of the step. -/
theorem step_cases {s t : State} (h : step s = .next t) :
    (s.run = .stopped ∧ t = s) ∨
    (s.run = .running ∧ s.cfg.stepsPerFrame ≠ 0 ∧
      ((s.beginStep.run ≠ .running ∧ t = s.beginStep) ∨
        (s.beginStep.run = .running ∧ ∃ u, s.beginStep.instrStep = .next u ∧ t = u.endStep))) := by
  unfold step State.cycle at h
  split at h
  · cases h
  · injection h with h
    exact .inl ⟨by assumption, h.symm⟩
  · next hr =>
    split at h
    · cases h
    · next hN =>
      refine .inr ⟨hr, hN, ?_⟩
      unfold State.runningStep at h
      split at h
      · next hb =>
        split at h
        · next u hu =>
          injection h with h
          exact .inr ⟨hb, u, hu, h.symm⟩
        · cases h
        · cases h
      · next hb =>
        injection h with h
        exact .inl ⟨hb, h.symm⟩

/-- A step of a running machine whose frame may begin is the instruction step with the end of the step after it. -/
theorem step_running {s : State} (hr : s.run = .running) (hN : 1 ≤ s.cfg.stepsPerFrame)
    (hb : s.beginStep.run = .running) :
    step s = match s.beginStep.instrStep with
      | .next t => .next t.endStep
      | .fault f => .fault f
      | .refused r => .refused r := by
  unfold step State.cycle State.runningStep
  rw [hr]
  simp only [hb, if_true]
  exact if_neg (by omega)

/-! ### A run -/

/-- One more step at the front of a run. -/
theorem run_succ (k : Nat) (s : State) :
    Host.Core.run core (k + 1) s = match step s with
      | .next t => Host.Core.run core k t
      | .fault f => .fault f
      | .refused r => .refused r := by
  refine (Host.Core.run.eq_2 core s k).trans ?_
  have hc : core.step s = step s := rfl
  rw [hc]
  cases step s <;> rfl

/-- A run of one step more that gives a next state took its first step to some state, and runs on from there. -/
theorem run_first {k : Nat} {s t : State} (h : Host.Core.run core (k + 1) s = .next t) :
    ∃ u : State, step s = .next u ∧ Host.Core.run core k u = .next t := by
  rw [run_succ] at h
  split at h
  · exact ⟨_, by assumption, h⟩
  · cases h
  · cases h

/-- The same by its last step. -/
theorem run_last {k : Nat} {s t : State} (h : Host.Core.run core (k + 1) s = .next t) :
    ∃ u : State, Host.Core.run core k s = .next u ∧ step u = .next t := by
  induction k generalizing s with
  | zero =>
    obtain ⟨u, hu, ht⟩ := run_first h
    cases ht
    exact ⟨s, rfl, hu⟩
  | succ k ih =>
    obtain ⟨w, hw, ht⟩ := run_first h
    obtain ⟨u, hu, hl⟩ := ih ht
    refine ⟨u, ?_, hl⟩
    rw [run_succ, hw]
    exact hu

/-- The induction over a run, once: what holds at its start and what every step keeps holds at its end. -/
theorem run_keeps {P : State → Prop} (hstep : ∀ s t, P s → step s = .next t → P t) {k : Nat} {s t : State} (hs : P s)
    (h : Host.Core.run core k s = .next t) : P t := by
  induction k generalizing s with
  | zero => cases h; exact hs
  | succ k ih =>
    rw [run_succ] at h
    split at h
    · next u hu => exact ih (hstep s u hs hu) h
    · cases h
    · cases h

/-- A run of `j + k` steps is a run of `j` and then a run of `k`. -/
theorem run_add (j k : Nat) (s : State) :
    Host.Core.run core (j + k) s = match Host.Core.run core j s with
      | .next t => Host.Core.run core k t
      | .fault f => .fault f
      | .refused r => .refused r := by
  induction j generalizing s with
  | zero => simp only [Nat.zero_add]; rfl
  | succ j ih =>
    rw [show j + 1 + k = (j + k) + 1 by omega, run_succ, run_succ]
    cases step s with
    | next t => exact ih t
    | fault f => rfl
    | refused r => rfl

end Sys2Proof.Machine
end

