-- ==== Sys2Proof/Tests/Slice0.lean ====
section
/-! SUPPORT. Tests: expected results are from spec/95_test_vectors.md (section named at each group) or worked by hand from the
rule named. Then, for each obligation with hypotheses, a witness that meets them, clause by clause. -/

namespace Sys2Proof.Tests

open Sys2Proof Sys2Proof.Machine

/-! ### Helpers -/

/-- Reset, inside a frame: a step neither polls nor ends the frame. -/
def inFrame : State := { State.reset with phase := 1 }

/-- The next step from the state changed by `pre` runs the word `w` and answers a next state with the property `p`. -/
def ok (w : Nat) (pre : State → State) (p : State → Bool) : Bool :=
  match step ((pre inFrame).withFetchWord 16 w) with
  | .next t => p t
  | .fault _ => false
  | .refused _ => false

/-- Where the display is lit, column and row. -/
def lit (s : State) (cells : List (Nat × Nat)) : Bool := cells.all (fun c => s.fb.get c.1 c.2)

/-- The instruction's next state, if it gives one. -/
def after (i : Instr) (s : State) : Option State :=
  match exec i s with
  | .next t => some t
  | .fault _ => none
  | .refused _ => none

/-! ### Well-formedness -/

theorem test_wellFormed_refuses_the_word_of_cls : (Instr.illegal0nnn 0x0E0).wellFormed = false := by decide
theorem test_wellFormed_refuses_the_word_of_ret : (Instr.illegal0nnn 0x0EE).wellFormed = false := by decide
theorem test_wellFormed_takes_an_illegal_row_word : (Instr.illegal0nnn 0x0E1).wellFormed = true := by decide

/-! ### Decoding: every row of R75 and R77, its word written out from the pattern, operands of distinct bits -/

theorem test_decode_family0 :
    decodeWord 0b0000_0000_1110_0000#16 = .ok .cls ∧
    decodeWord 0b0000_0000_1110_1110#16 = .ok .ret ∧
    decodeWord 0b0000_0001_0010_0011#16 = .ok (.illegal0nnn 0x123) ∧
    decodeWord 0b0000_0000_1110_0001#16 = .ok (.illegal0nnn 0x0E1) := by decide
theorem test_decode_jumps :
    decodeWord 0b0001_0010_0011_0100#16 = .ok (.jp 0x234) ∧
    decodeWord 0b0010_0010_0011_0100#16 = .ok (.call 0x234) ∧
    decodeWord 0b1011_0010_0011_0100#16 = .ok (.jpV0 0x234) ∧
    decodeWord 0b1010_0010_0011_0100#16 = .ok (.ldI 0x234) := by decide
theorem test_decode_immediates :
    decodeWord 0b0011_0110_1010_0101#16 = .ok (.seImm 6 0xA5) ∧
    decodeWord 0b0100_0110_1010_0101#16 = .ok (.sneImm 6 0xA5) ∧
    decodeWord 0b0110_0110_1010_0101#16 = .ok (.ldImm 6 0xA5) ∧
    decodeWord 0b0111_0110_1010_0101#16 = .ok (.addImm 6 0xA5) ∧
    decodeWord 0b1100_0110_1010_0101#16 = .ok (.rnd 6 0xA5) := by decide
theorem test_decode_register_pairs :
    decodeWord 0b0101_0001_0010_0000#16 = .ok (.seReg 1 2) ∧
    decodeWord 0b1001_0001_0010_0000#16 = .ok (.sneReg 1 2) ∧
    decodeWord 0b1000_0001_0010_0000#16 = .ok (.ldReg 1 2) ∧
    decodeWord 0b1000_0001_0010_0001#16 = .ok (.orReg 1 2) ∧
    decodeWord 0b1000_0001_0010_0010#16 = .ok (.andReg 1 2) ∧
    decodeWord 0b1000_0001_0010_0011#16 = .ok (.xorReg 1 2) ∧
    decodeWord 0b1000_0001_0010_0100#16 = .ok (.addReg 1 2) ∧
    decodeWord 0b1000_0001_0010_0101#16 = .ok (.subReg 1 2) ∧
    decodeWord 0b1000_0001_0010_0110#16 = .ok (.shr 1 2) ∧
    decodeWord 0b1000_0001_0010_0111#16 = .ok (.subnReg 1 2) ∧
    decodeWord 0b1000_0001_0010_1110#16 = .ok (.shl 1 2) := by decide
theorem test_decode_drw_and_keys :
    decodeWord 0b1101_0001_0010_0011#16 = .ok (.drw 1 2 3) ∧
    decodeWord 0b1110_0101_1001_1110#16 = .ok (.skp 5) ∧
    decodeWord 0b1110_0101_1010_0001#16 = .ok (.sknp 5) := by decide
theorem test_decode_familyF :
    decodeWord 0b1111_0101_0000_0111#16 = .ok (.ldVxDT 5) ∧
    decodeWord 0b1111_0101_0000_1010#16 = .ok (.ldVxK 5) ∧
    decodeWord 0b1111_0101_0001_0101#16 = .ok (.ldDTVx 5) ∧
    decodeWord 0b1111_0101_0001_1000#16 = .ok (.ldSTVx 5) ∧
    decodeWord 0b1111_0101_0001_1110#16 = .ok (.addI 5) ∧
    decodeWord 0b1111_0101_0010_1001#16 = .ok (.ldF 5) ∧
    decodeWord 0b1111_0101_0011_0011#16 = .ok (.ldB 5) ∧
    decodeWord 0b1111_0101_0101_0101#16 = .ok (.ldMemVx 5) ∧
    decodeWord 0b1111_0101_0110_0101#16 = .ok (.ldVxMem 5) := by decide
/-- Section 2.1: the words it calls Unknown. -/
theorem test_decode_rejects :
    [0x0000, 0x00E1, 0x00FE, 0x0123, 0x5121, 0x512F, 0x8128, 0x812D, 0x812F, 0x9121, 0xE09F, 0xE000, 0xF000, 0xF030, 0xF075,
      0xF085, 0xFFFF].all (fun w => !legalWord w) = true := by decide
/-- Section 2.1: legal corners. -/
theorem test_decode_legal_corners :
    [0x10E0, 0xD000, 0xE09E, 0xE0A1, 0x8AB6, 0x812E, 0xF007, 0xF065].all legalWord = true := by decide
/-- R54, R70: the byte at the lower address is the high one; the rest of the bytes is handed back; one byte is no instruction. -/
theorem test_decode_bytes :
    decode [0x6A, 0x07, 0x99] = .ok (.ldImm 10 7, [0x99]) ∧ decode [0x6A] = .error .truncated ∧
    decodeTableWord 16 0x6A07 = some (.ldImm 10 7) ∧ decodeTableWord 16 0xF085 = none := by decide
theorem test_encode_words :
    encode (.drw 1 2 3) = 0xD123 ∧ encode (.ldVxMem 0xF) = 0xFF65 ∧ encode (.jpV0 0x234) = 0xB234 := by decide

/-! ### Control transfer (section 2.2) -/

theorem test_jp_odd_target : ok 0x1201 id (fun t => t.pc == 0x201) = true := by decide
theorem test_call_saves_the_next_address :
    ok 0x2206 id (fun t => t.stack[0] == 0x0202 && t.sp == 1 && t.pc == 0x206) = true := by decide
theorem test_call_overflow :
    ok 0x2300 (fun s => { s with sp := 16 }) (fun t => t.run == .halted .stackOverflow 0x0200 0x2300 && t.pc == 0x200) = true := by
  decide
theorem test_ret_pops :
    ok 0x00EE (fun s => { s with sp := 1, stack := s.stack.set 0 0x0302 })
      (fun t => t.pc == 0x302 && t.sp == 0 && t.stack[0] == 0x0302) = true := by decide
theorem test_ret_underflow : ok 0x00EE id (fun t => t.run == .halted .stackUnderflow 0x0200 0x00EE && t.sp == 0) = true := by decide
theorem test_seImm :
    (ok 0x332A (fun s => s.setV 3 0x2A) (fun t => t.pc == 0x204) && ok 0x332B (fun s => s.setV 3 0x2A) (fun t => t.pc == 0x202)) = true := by
  decide
theorem test_sneImm :
    (ok 0x432A (fun s => s.setV 3 0x2A) (fun t => t.pc == 0x202) && ok 0x432B (fun s => s.setV 3 0x2A) (fun t => t.pc == 0x204)) = true := by
  decide
theorem test_seReg :
    (ok 0x5120 (fun s => (s.setV 1 7).setV 2 7) (fun t => t.pc == 0x204) &&
      ok 0x5120 (fun s => (s.setV 1 7).setV 2 8) (fun t => t.pc == 0x202)) = true := by decide
theorem test_sneReg :
    (ok 0x9120 (fun s => (s.setV 1 7).setV 2 8) (fun t => t.pc == 0x204) &&
      ok 0x9120 (fun s => (s.setV 1 7).setV 2 7) (fun t => t.pc == 0x202)) = true := by decide
theorem test_jpV0_is_not_reduced : ok 0xBFFF (fun s => s.setV 0 0xFF) (fun t => t.pc == 0x10FE) = true := by decide
theorem test_zero_word_halts :
    ok 0x0123 id (fun t => t.run == .halted .illegalOpcode 0x0200 0x0123 && t.pc == 0x200 && t.phase == 1) = true := by decide
theorem test_unknown_word_halts : ok 0x5011 id (fun t => t.run == .halted .illegalOpcode 0x0200 0x5011) = true := by decide
theorem test_fetch_wraps_and_pc_does_not :
    ok 0x6207 (fun s => { s with pc := 0xFFF }) (fun t => t.V 2 == 7 && t.pc == 0x1001) = true := by decide

/-! ### Loads, arithmetic, logic (section 2.3) -/

theorem test_ldImm : ok 0x61A5 (fun s => s.setV 15 0x55) (fun t => t.V 1 == 0xA5 && t.VF == 0x55) = true := by decide
theorem test_addImm_wraps : ok 0x7002 (fun s => (s.setV 0 0xFF).setV 15 0x55) (fun t => t.V 0 == 1 && t.VF == 0x55) = true := by decide
theorem test_ldReg : ok 0x8F20 (fun s => s.setV 2 0x64) (fun t => t.VF == 0x64) = true := by decide
theorem test_orReg :
    ok 0x8121 (fun s => ((s.setV 1 0xF0).setV 2 0x0F).setV 15 0x55) (fun t => t.V 1 == 0xFF && t.VF == 0x55) = true := by decide
theorem test_andReg : ok 0x8122 (fun s => (s.setV 1 0xF0).setV 2 0x3C) (fun t => t.V 1 == 0x30) = true := by decide
theorem test_xorReg : ok 0x8123 (fun s => (s.setV 1 0xF0).setV 2 0x3C) (fun t => t.V 1 == 0xCC) = true := by decide
theorem test_addReg_carry :
    ok 0x8124 (fun s => (s.setV 1 0xC8).setV 2 0x64) (fun t => t.V 1 == 0x2C && t.VF == 1 && t.V 2 == 0x64) = true := by decide
theorem test_addReg_into_VF : ok 0x8F24 (fun s => (s.setV 15 0xC8).setV 2 0x64) (fun t => t.VF == 1) = true := by decide
theorem test_subReg_equal : ok 0x8125 (fun s => (s.setV 1 1).setV 2 1) (fun t => t.V 1 == 0 && t.VF == 1) = true := by decide
theorem test_subReg_borrow : ok 0x8125 (fun s => (s.setV 1 5).setV 2 10) (fun t => t.V 1 == 0xFB && t.VF == 0) = true := by decide
theorem test_subnReg : ok 0x8127 (fun s => (s.setV 1 5).setV 2 10) (fun t => t.V 1 == 5 && t.VF == 1) = true := by decide
theorem test_subnReg_from_VF : ok 0x81F7 (fun s => (s.setV 1 0x10).setV 15 1) (fun t => t.V 1 == 0xF1 && t.VF == 0) = true := by decide
theorem test_shr : ok 0x8126 (fun s => (s.setV 1 0x55).setV 2 0x33) (fun t => t.V 1 == 0x2A && t.VF == 1 && t.V 2 == 0x33) = true := by
  decide
theorem test_shl : ok 0x812E (fun s => (s.setV 1 0xAA).setV 2 0x33) (fun t => t.V 1 == 0x54 && t.VF == 1) = true := by decide
/-- U1, by hand: with the switch set the source is V2 = 0x33. -/
theorem test_shl_of_vy :
    ok 0x812E (fun s => { (s.setV 1 0xAA).setV 2 0x33 with cfg := { s.cfg with shiftUsesVy := true } })
      (fun t => t.V 1 == 0x66 && t.VF == 0) = true := by decide
theorem test_rnd :
    ok 0xC10F (fun s => { s with env := { s.env with rndBytes := [0xA7, 0x5C] } })
      (fun t => t.V 1 == 7 && t.env.rndBytes == [0x5C]) = true := by decide

/-! ### Index and memory (section 2.4) -/

theorem test_ldI : ok 0xA300 id (fun t => t.i == 0x300) = true := by decide
theorem test_addI_wraps :
    ok 0xF31E (fun s => ((s.setI 0xFFFF).setV 3 0xFF).setV 15 9) (fun t => t.i == 0x00FE && t.VF == 9) = true := by decide
theorem test_ldF_low_nibble : ok 0xF029 (fun s => s.setV 0 0x1A) (fun t => t.i == 0x0032) = true := by decide
theorem test_ldB_wraps :
    ok 0xF033 (fun s => (s.setV 0 255).setI 0xFFE)
      (fun t => t.memRead 0xFFE == 2 && t.memRead 0xFFF == 5 && t.memRead 0 == 5 && t.memRead 1 == 0x90) = true := by decide
theorem test_ldMemVx_wraps :
    ok 0xF255 (fun s => (((s.setV 0 0x11).setV 1 0x22).setV 2 0x33).setI 0xFFF)
      (fun t => t.memRead 0xFFF == 0x11 && t.memRead 0 == 0x22 && t.memRead 1 == 0x33 && t.i == 0xFFF) = true := by decide
theorem test_ldVxMem_font :
    ok 0xF465 (fun s => s.setV 5 0x77)
      (fun t => t.V 0 == 0xF0 && t.V 1 == 0x90 && t.V 4 == 0xF0 && t.V 5 == 0x77 && t.i == 0) = true := by decide
/-- U2, by hand: I moves past the block of two. -/
theorem test_ldVxMem_moves_I :
    ok 0xF165 (fun s => { s.setI 0x1000 with cfg := { s.cfg with loadStoreIncI := true } })
      (fun t => t.V 0 == 0xF0 && t.V 1 == 0x90 && t.i == 0x1002) = true := by decide

/-! ### Display (section 2.5) -/

theorem test_drw_clips :
    ok 0xD015 (fun s => (s.setV 0 62).setV 1 30)
      (fun t => lit t [(62, 30), (63, 30), (62, 31)] && !t.fb.get 63 31 && !t.fb.get 0 30 && !t.fb.get 62 0 && t.VF == 0) = true := by
  decide
theorem test_drw_coordinate_from_VF :
    ok 0xDF11 (fun s => { s.setV 15 10 with fb := s.fb.set 0 1#64 }) (fun t => lit t [(0, 0), (10, 0), (13, 0)] && t.VF == 0) = true := by
  decide
theorem test_drw_collision :
    ok 0xD011 (fun s => { s with fb := s.fb.set 0 0x0F#64 }) (fun t => decide (t.fb = Display.blank) && t.VF == 1) = true := by decide
theorem test_cls_keeps_VF :
    ok 0x00E0 (fun s => { s.setV 15 1 with fb := s.fb.set 3 7#64 }) (fun t => decide (t.fb = Display.blank) && t.VF == 1) = true := by
  decide

/-! ### Timers, keypad, frame (sections 2.6 and 1) -/

theorem test_ldVxDT : ok 0xF307 (fun s => s.setDT 30) (fun t => t.V 3 == 30 && t.dt == 30) = true := by decide
theorem test_ldDTVx : ok 0xF015 (fun s => s.setV 0 60) (fun t => t.dt == 60) = true := by decide
theorem test_ldSTVx : ok 0xF018 (fun s => s.setV 0 5) (fun t => t.st == 5 && t.toneActive == none) = true := by decide
theorem test_skp_masks_the_index :
    ok 0xE09E (fun s => { s.setV 0 0x17 with keys := 0x0080 }) (fun t => t.pc == 0x204) = true := by decide
theorem test_sknp :
    (ok 0xE0A1 (fun s => { s.setV 0 7 with keys := 0x0080 }) (fun t => t.pc == 0x202) &&
      ok 0xE0A1 (fun s => s.setV 0 7) (fun t => t.pc == 0x204)) = true := by decide
theorem test_ldVxK_lowest : ok 0xF30A (fun s => { s with keys := 0x0088 }) (fun t => t.V 3 == 3 && t.pc == 0x202) = true := by decide
theorem test_ldVxK_waits : ok 0xF30A (fun s => s.setV 3 9) (fun t => t.V 3 == 9 && t.pc == 0x200 && t.phase == 2) = true := by decide
/-- S6: the write of 60 in the last step of a frame reads 59 after its end. -/
theorem test_frame_end_ticks :
    ok 0xF015 (fun s => { s.setV 0 60 with phase := 9 })
      (fun t => t.dt == 59 && t.phase == 0 && t.frameOut == some t.fb && t.toneActive == some false) = true := by decide
/-- Section 2.6: a sound of 1 is never audible, a sound of 2 is. -/
theorem test_tone :
    (ok 0xF018 (fun s => { s.setV 0 1 with phase := 9 }) (fun t => t.st == 0 && t.toneActive == some false) &&
      ok 0xF018 (fun s => { s.setV 0 2 with phase := 9 }) (fun t => t.st == 1 && t.toneActive == some true)) = true := by decide
/-- P6, frame 2: the poll at the start of the frame is seen by its first step. -/
theorem test_poll_before_the_first_step :
    ok 0xF10A (fun s => { s with phase := 0, env := { s.env with keyWords := [0x0088, 0x0080] } })
      (fun t => t.V 1 == 3 && t.keys == 0x0088 && t.env.keyWords == [0x0080]) = true := by decide

/-! ### Reset (section 2.7, R37) -/

theorem test_reset_values :
    State.reset.pc = 0x200 ∧ State.reset.sp = 0 ∧ State.reset.memRead 0 = 0xF0 ∧ State.reset.memRead 1 = 0x90 ∧
    State.reset.memRead 4 = 0xF0 ∧ State.reset.memRead 0x50 = 0 ∧ State.reset.fb = Display.blank := by decide
theorem test_empty_image_halts :
    (match step State.reset with
      | .next t => t.run == .halted .illegalOpcode 0x0200 0x0000 && t.frameOut == none
      | _ => false) = true := by decide
theorem test_boot_without_an_image_is_reset :
    (match boot Config.standard Env.undecided [] with
      | .next t => decide (t = State.reset)
      | _ => false) = true := by decide
theorem test_boot_places_the_image :
    (match boot Config.standard Env.undecided [0x12, 0x34] with
      | .next t => t.fetch == 0x1234 && t.memRead 0x202 == 0
      | _ => false) = true := by decide
/-- R32: the last font byte stands at 0x04F. -/
theorem test_font_end : State.reset.memRead 0x04B = 0xF0 ∧ State.reset.memRead 0x04F = 0x80 := by decide

/-! ### Witnesses: states and operands that meet the hypotheses of the obligations -/

/-- A machine at `JP 0x200`, about to begin a frame. -/
def idle : State := State.reset.withFetchWord 16 0x1200
/-- The same machine with frames of `n` steps. -/
def idleN (n : Nat) : State := { idle with cfg := { idle.cfg with stepsPerFrame := n } }

/-- The last step of a frame of ten, at `LD DT, V0` with V0 = 60. -/
def lastWrite : State := { (State.reset.setV 0 60).withFetchWord 16 0xF015 with phase := 9 }

theorem witness_DecodeOfEncode : (Instr.drw 15 0 15).wellFormed = true ∧ (Instr.illegal0nnn 0x0EF).wellFormed = true := by decide
theorem witness_EncodeOfDecode :
    decodeWord 0xD123 = .ok (.drw 1 2 3) ∧ decodeWord 0x0000 = .ok (.illegal0nnn 0) ∧ decodeWord 0xFF65 = .ok (.ldVxMem 15) := by
  decide
theorem witness_RowDecodesExactlyItsWords :
    (0xF065, 0xF0FF) ∈ opcodeMap ∧ (0xFF65#16 &&& 0xF0FF = 0xF065) ∧ (0x00E0, 0xFFFF) ∈ opcodeMap := by decide
theorem witness_StepRunsTheDecodedInstruction :
    idle.run = .running ∧ 1 ≤ idle.cfg.stepsPerFrame ∧ idle.beginStep.run = .running ∧ decodeWord idle.fetch = .ok (.jp 0x200) := by
  decide
theorem witness_UnknownWordHalts :
    (State.reset.withFetchWord 16 0x5011).run = .running ∧ 1 ≤ (State.reset.withFetchWord 16 0x5011).cfg.stepsPerFrame ∧
    (State.reset.withFetchWord 16 0x5011).beginStep.run = .running ∧
    decodeWord (State.reset.withFetchWord 16 0x5011).fetch = .error (.unknown 0x5011) := by decide
theorem witness_FaultIsPrecise :
    State.reset.run = .running ∧ ∃ t, step State.reset = .next t ∧ t.run = .halted .illegalOpcode 0x200 0 :=
  ⟨rfl, _, rfl, by decide⟩
/-- A rejected word, a `0nnn` word, an overflow, an underflow and a shutdown, each a step of a running machine. -/
theorem witness_OnlyThreeErrorsAndShutdownStopTheMachine :
    (∃ t, step (State.reset.withFetchWord 16 0x5121) = .next t ∧ t.run = .halted .illegalOpcode 0x200 0x5121) ∧
    (∃ t, step (State.reset.withFetchWord 16 0x0123) = .next t ∧ t.run = .halted .illegalOpcode 0x200 0x0123) ∧
    (∃ t, step { State.reset.withFetchWord 16 0x2300 with sp := 16 } = .next t ∧ t.run = .halted .stackOverflow 0x200 0x2300) ∧
    (∃ t, step (State.reset.withFetchWord 16 0x00EE) = .next t ∧ t.run = .halted .stackUnderflow 0x200 0x00EE) ∧
    (∃ t, step { State.reset with env := { State.reset.env with shutdownIn := some 0 } } = .next t ∧ t.run = .stopped) ∧
    (∃ t, exec .ret State.reset = .next t ∧ State.reset.run = .running ∧ t.run ≠ .running) ∧
    (∃ t, exec (.call 0x300) { State.reset with sp := 16 } = .next t ∧ t.run ≠ .running) ∧
    (∃ t, exec (.illegal0nnn 0) State.reset = .next t ∧ t.run ≠ .running) :=
  ⟨⟨_, rfl, by decide⟩, ⟨_, rfl, by decide⟩, ⟨_, rfl, by decide⟩, ⟨_, rfl, by decide⟩, ⟨_, rfl, by decide⟩,
    ⟨_, rfl, rfl, by decide⟩, ⟨_, rfl, by decide⟩, ⟨_, rfl, by decide⟩⟩
theorem witness_NothingChangesUntilReset :
    ({ State.reset with run := .halted .illegalOpcode 0x200 0 } : State).run = .halted .illegalOpcode 0x200 0 ∧
    ({ State.reset with run := .stopped } : State).run = .stopped := by decide
theorem witness_ShutdownStopsOnlyBetweenFrames :
    let s : State := { State.reset with env := { State.reset.env with shutdownIn := some 0 } }
    s.run = .running ∧ 1 ≤ s.cfg.stepsPerFrame ∧ s.phase = 0 ∧ s.env.shutdownIn = some 0 ∧
      ∃ t, step s = .next t ∧ t.run = .stopped :=
  ⟨rfl, by decide, rfl, rfl, _, rfl, rfl⟩
theorem witness_KeypadIsPolledOncePerFrame :
    (∃ t, step idle = .next t ∧ idle.run = .running ∧ t.run ≠ .stopped ∧ idle.phase = 0) ∧
    (∃ t, step { idle with phase := 1 } = .next t ∧ t.run ≠ .stopped ∧ ({ idle with phase := 1 } : State).phase ≠ 0) :=
  ⟨⟨_, rfl, rfl, by decide, rfl⟩, ⟨_, rfl, by decide, by decide⟩⟩
theorem witness_CallPushesOrOverflows :
    State.reset.sp.val < 16 ∧ ({ State.reset with sp := 15 } : State).sp.val < 16 ∧
    ({ State.reset with sp := 16 } : State).sp.val = 16 := by decide
theorem witness_RetPopsOrUnderflows :
    0 < ({ State.reset with sp := 1 } : State).sp.val ∧ 0 < ({ State.reset with sp := 16 } : State).sp.val ∧
    State.reset.sp.val = 0 := by decide
theorem witness_RetUndoesCall : State.reset.sp.val < 16 ∧ ({ State.reset with sp := 15 } : State).sp.val < 16 := by decide
theorem witness_LogicResults :
    State.reset.cfg.logicResetsVF = false ∧
    ({ State.reset with cfg := { State.reset.cfg with logicResetsVF := true } } : State).cfg.logicResetsVF = true := by decide
theorem witness_ShiftsByOne :
    (0x81 : Byte) = (if (State.reset.setV 1 0x81).cfg.shiftUsesVy = true then (State.reset.setV 1 0x81).V 2
      else (State.reset.setV 1 0x81).V 1) := by decide
theorem witness_IndexLoads :
    State.reset.cfg.addISetsVF = false ∧
    ({ State.reset with cfg := { State.reset.cfg with addISetsVF := true } } : State).cfg.addISetsVF = true := by decide
/-- With I = 0xFFE the third byte is at 0, and the addresses next to the block are outside it. -/
theorem witness_BcdStoresThreeDigits :
    (State.reset.setI 0xFFE).mem.wf = true ∧
    (∀ k, k < 3 → 1 % 4096 ≠ (State.reset.setI 0xFFE).ea k % 4096) ∧
    (∀ k, k < 3 → 0xFFD % 4096 ≠ (State.reset.setI 0xFFE).ea k % 4096) := by decide
theorem witness_StoreBlock :
    (State.reset.memWrite 0 7).mem.wf = true ∧ (15 : Reg) ≤ 15 ∧ (0 : Reg) ≤ 0 ∧
    (∀ k, k ≤ (15 : Reg).val → 15 % 4096 ≠ (State.reset.setI 0xFFF).ea k % 4096) := by decide
theorem witness_LoadBlock : (0 : Reg) ≤ 0 ∧ (14 : Reg) < 15 := by decide
theorem witness_LoadUndoesStore : (State.reset.setI 0xFFF).mem.wf = true ∧ (State.reset.setI 0xFFF).cfg.loadStoreIncI = false := by
  decide
theorem witness_FetchSeesAStore : ({ State.reset with pc := 0xFFFF } : State).mem.wf = true := by decide
theorem witness_DrwXorsTheClippedSprite :
    63 = ((State.reset.setV 1 0xFF).V 1).toNat % 64 ∧ 31 = ((State.reset.setV 1 0xFF).V 1).toNat % 32 ∧
    (State.reset.spriteBit 63 31 15 63 31 = true) := by decide
theorem witness_DrawingTwiceRestoresTheDisplay :
    ∃ t, exec (.drw 0 1 5) State.reset = .next t ∧ t.V 0 = State.reset.V 0 ∧ t.V 1 = State.reset.V 1 :=
  ⟨_, rfl, by decide, by decide⟩
theorem witness_DrwChangesAtMostEightCellsARow :
    (after (.drw 0 1 0) State.reset).isSome = true ∧ (after (.drw 0 1 15) State.reset).isSome = true := ⟨rfl, rfl⟩
theorem witness_KeyWait :
    State.reset.cfg.keyWaitOnRelease = false ∧ State.reset.keys = 0 ∧ ({ State.reset with keys := 0x8000 } : State).keys ≠ 0 ∧
    ({ State.reset with cfg := { State.reset.cfg with keyWaitOnRelease := true } } : State).cfg.keyWaitOnRelease = true := by decide
/-- N = 1 is the bound k = N, N = 2 the bound k < N. -/
theorem witness_FrameIsNSteps :
    (idleN 1).run = .running ∧ (idleN 1).phase = 0 ∧ 1 ≤ (idleN 1).cfg.stepsPerFrame ∧ 1 < (idleN 2).cfg.stepsPerFrame ∧
    (∃ t, Host.Core.run core 1 (idleN 1) = .next t ∧ State.run t = .running) ∧
    (∃ t, Host.Core.run core 1 (idleN 2) = .next t ∧ State.run t = .running) :=
  ⟨by decide, by decide, by decide, by decide, ⟨_, rfl, by decide⟩, ⟨_, rfl, by decide⟩⟩
/-- A step inside a frame, and the last step of a frame that writes a timer. -/
theorem witness_TimersMoveOnlyAtFrameEnds :
    (idle.beginStep.run = .running ∧ decodeWord idle.fetch = .ok (.jp 0x200) ∧ (∃ t, step idle = .next t ∧ t.run = .running) ∧
      idle.phase + 1 < idle.cfg.stepsPerFrame) ∧
    (lastWrite.run = .running ∧ lastWrite.beginStep.run = .running ∧ decodeWord lastWrite.fetch = .ok (.ldDTVx 0) ∧
      (∃ t, step lastWrite = .next t ∧ t.run = .running) ∧ lastWrite.cfg.stepsPerFrame ≤ lastWrite.phase + 1 ∧
      lastWrite.dtAfter (.ldDTVx 0) = 60) :=
  ⟨⟨by decide, by decide, ⟨_, rfl, by decide⟩, by decide⟩,
    by decide, by decide, by decide, ⟨_, rfl, by decide⟩, by decide, by decide⟩
theorem witness_WhatNoInstructionWrites :
    (after (.rnd 1 0) State.reset).isSome = true ∧ (after (.ldDTVx 1) State.reset).isSome = true ∧
    (after (.ldSTVx 1) State.reset).isSome = true ∧ (after .cls State.reset).isSome = true := ⟨rfl, rfl, rfl, rfl⟩
theorem witness_OnlyTheListedWriters :
    (after (.ldI 1) State.reset).isSome = true ∧ (after (.ldMemVx 15) State.reset).isSome = true ∧
    (after .ret State.reset).isSome = true ∧ (after (.call 1) State.reset).isSome = true := ⟨rfl, rfl, rfl, rfl⟩
theorem witness_FlagWritersOfVF :
    (after (.addReg 15 15) State.reset).isSome = true ∧ (after (.orReg 14 15) State.reset).isSome = true ∧
    (after (.ldVxMem 14) State.reset).isSome = true ∧ (after .cls State.reset).isSome = true := ⟨rfl, rfl, rfl, rfl⟩
theorem witness_NoInstructionReadsST :
    (after (.ldSTVx 15) State.reset).isSome = true ∧ (after (.ldVxDT 0) State.reset).isSome = true := ⟨rfl, rfl⟩
theorem witness_HighBitsOfIAreNotObservable :
    (0xF000 : Word).toNat % 4096 = State.reset.i.toNat % 4096 ∧ (after (.ldMemVx 15) State.reset).isSome = true := ⟨by decide, rfl⟩
theorem witness_DeadStackEntriesAreNotRead :
    (∀ k : Nat, k < State.reset.sp.val → (State.reset.stack.set 0 5)[k]? = State.reset.stack[k]?) ∧
    (after (.call 0x300) State.reset).isSome = true := ⟨fun k h => absurd h (Nat.not_lt_zero k), rfl⟩
theorem witness_OutputsAreNotRead : ∃ t, step { idle with frameOut := some Display.blank, toneActive := some true } = .next t :=
  ⟨_, rfl⟩
theorem witness_StackDiscipline : ∃ t, Host.Core.run core 1 (State.reset.withFetchWord 16 0x2300) = .next t ∧ State.sp t = 1 :=
  ⟨_, rfl, by decide⟩
theorem witness_IdleMachineStaysIdle :
    idle.idleAt 0x200 ∧ 1 ≤ idle.cfg.stepsPerFrame ∧ idle.beginStep.run = .running :=
  ⟨⟨by decide, by decide, by decide⟩, by decide, by decide⟩
theorem witness_TimersRunDownWhileIdle :
    State.idleAt { idle with dt := 255 } 0x200 ∧ idle.phase = 0 ∧ idle.env.shutdownIn = none :=
  ⟨⟨by decide, by decide, by decide⟩, by decide, by decide⟩
theorem witness_EveryStepKeepsTheInvariant : idle.Inv ∧ ∃ t, step idle = .next t :=
  ⟨⟨by decide, by decide, by decide, trivial, rfl⟩, _, rfl⟩
theorem witness_MachineNeverGetsStuck :
    idle.Inv ∧ idle.failed = false ∧ State.Inv { State.reset with run := .stopped } ∧
      State.failed { State.reset with run := .stopped } = false :=
  ⟨⟨by decide, by decide, by decide, trivial, rfl⟩, by decide, ⟨by decide, by decide, by decide, rfl, rfl⟩, by decide⟩
theorem witness_ImageIsLoadedAt0x200 :
    Config.standard.supported = true ∧ (List.replicate 3584 (0 : Byte)).length ≤ 3584 ∧ ([] : List Byte).length ≤ 3584 ∧
    3583 < (List.replicate 3584 (0 : Byte)).length ∧ 0x1FF < 0x200 ∧ 79 < 80 :=
  ⟨by decide, List.length_replicate.le, Nat.zero_le _, Nat.lt_of_lt_of_eq (Nat.lt_succ_self 3583) List.length_replicate.symm,
    by decide, by decide⟩
/-- The two zero ranges at their ends, and none above an image that fills the program space. -/
theorem witness_ResetState :
    Config.standard.supported = true ∧
    (List.replicate 3584 (0x12 : Byte)).length ≤ 3584 ∧ ([0x12, 0x00] : List Byte).length ≤ 3584 ∧
    (80 ≤ 80 ∧ 80 < 0x200) ∧ (80 ≤ 0x1FF ∧ 0x1FF < 0x200) ∧
    (0x200 + ([0x12, 0x00] : List Byte).length ≤ 0x202 ∧ 0x202 < 4096) :=
  ⟨by decide, List.length_replicate.le, by decide, by decide, by decide, by decide⟩
theorem witness_TooLargeAnImageIsRefused : 3584 < (List.replicate 3585 (0 : Byte)).length :=
  Nat.lt_of_lt_of_eq (Nat.lt_succ_self 3584) List.length_replicate.symm

end Sys2Proof.Tests
end

/-! ## The state (spec/10_state.md): what an instruction can write and cannot read, the stack, the invariant, reset -/

namespace Sys2Proof

/-! ### The word of a decoded instruction (R74) -/

section Fields
variable {op : Word} {c : Nat} (hc : (fieldC op).toNat = c)
include hc

theorem encNNN_of_fields : encNNN c (fieldNNN op) = op := by
  rw [← hc, encNNN_fields]

theorem encXKK_of_fieldC : encXKK c (fieldX op) (fieldKK op) = op := by
  rw [← hc, encXKK_fields]

theorem encXKK_of_fields {kk : Byte} (hk : (fieldKK op).toNat = kk.toNat) : encXKK c (fieldX op) kk = op := by
  rw [← BitVec.eq_of_toNat_eq hk, encXKK_of_fieldC hc]

theorem encXYN_of_fields {n : Fin 16} (hn : (fieldN op).val = n.val) : encXYN c (fieldX op) (fieldY op) n = op := by
  rw [← Fin.ext hn, ← hc, encXYN_fields]

end Fields

section Families
variable {op : Word} {i : Instr}

theorem encode_of_decode0 (hc : (fieldC op).toNat = 0) : encode (decode0 op) = op := by
  unfold decode0
  split
  · next h => exact h.symm
  · split
    · next h => exact h.symm
    · exact encNNN_of_fields hc

theorem encode_of_decodeXY0 {j : Instr} (hi : (fieldN op).val = 0 → encode i = op) (h : decodeXY0 op i = .ok j) :
    encode j = op := by
  unfold decodeXY0 at h
  split at h
  · next hn => cases h; exact hi (congrArg Fin.val hn)
  · cases h

theorem encode_of_decode8 (hc : (fieldC op).toNat = 8) (h : decode8 op = .ok i) : encode i = op := by
  unfold decode8 at h
  split at h <;> cases h
  all_goals next hn => exact encXYN_of_fields hc hn

theorem encode_of_decodeE (hc : (fieldC op).toNat = 0xE) (h : decodeE op = .ok i) : encode i = op := by
  unfold decodeE at h
  split at h <;> cases h
  all_goals next hk => exact encXKK_of_fields hc hk

theorem encode_of_decodeF (hc : (fieldC op).toNat = 0xF) (h : decodeF op = .ok i) : encode i = op := by
  unfold decodeF at h
  split at h <;> cases h
  all_goals next hk => exact encXKK_of_fields hc hk

/-- The word that decodes to an instruction is that instruction's word (R74). -/
theorem encode_of_decodeWord (h : decodeWord op = .ok i) : encode i = op := by
  unfold decodeWord at h
  split at h
  case h_1 hc => cases h; exact encode_of_decode0 hc
  case h_2 hc | h_3 hc | h_11 hc | h_12 hc => cases h; exact encNNN_of_fields hc
  case h_4 hc | h_5 hc | h_7 hc | h_8 hc | h_13 hc => cases h; exact encXKK_of_fieldC hc
  case h_6 hc | h_10 hc =>
    refine encode_of_decodeXY0 (fun hn => ?_) h
    exact encXYN_of_fields hc hn
  case h_9 hc => exact encode_of_decode8 hc h
  case h_14 hc => cases h; exact encXYN_of_fields hc rfl
  case h_15 hc => exact encode_of_decodeE hc h
  case h_16 =>
    simp only [imp_false] at *
    have := (fieldC op).isLt
    exact encode_of_decodeF (by omega) h

end Families
end Sys2Proof

namespace Sys2Proof.Machine

open Host (Outcome)

/-! ### What one instruction writes -/

/-- `s` with the fields that the instruction may write taken from `t`: the writes of each row of the opcode table (R94). -/
def State.takeWrites (s t : State) : Instr → State
  | .jp _ | .jpV0 _ | .seImm _ _ | .sneImm _ _ | .seReg _ _ | .sneReg _ _ | .skp _ | .sknp _ => { s with pc := t.pc }
  | .ret => { s with pc := t.pc, sp := t.sp, run := t.run }
  | .call _ => { s with pc := t.pc, sp := t.sp, stack := t.stack, run := t.run }
  | .illegal0nnn _ => { s with run := t.run }
  | .rnd _ _ => { s with v := t.v, pc := t.pc, env := t.env }
  | .cls => { s with fb := t.fb, pc := t.pc }
  | .drw _ _ _ => { s with v := t.v, fb := t.fb, pc := t.pc }
  | .ldDTVx _ => { s with dt := t.dt, pc := t.pc }
  | .ldSTVx _ => { s with st := t.st, pc := t.pc }
  | .ldI _ | .addI _ | .ldF _ => { s with i := t.i, pc := t.pc }
  | .ldB _ => { s with mem := t.mem, pc := t.pc }
  | .ldMemVx _ => { s with mem := t.mem, i := t.i, pc := t.pc }
  | .ldVxMem _ => { s with v := t.v, i := t.i, pc := t.pc }
  | .ldImm _ _ | .addImm _ _ | .ldReg _ _ | .orReg _ _ | .andReg _ _ | .xorReg _ _ | .addReg _ _ | .subReg _ _
  | .shr _ _ | .subnReg _ _ | .shl _ _ | .ldVxDT _ | .ldVxK _ => { s with v := t.v, pc := t.pc }

/-- RET in its two cases (R100, R193). -/
theorem exec_ret_cases {s t : State} (h : exec .ret s = .next t) :
    (s.sp.val = 0 ∧ t = s.raise .stackUnderflow (encode .ret)) ∨
    ∃ h' : s.sp.val - 1 < 16, 0 < s.sp.val ∧
      t = { s with
        pc := s.stack[s.sp.val - 1]
        sp := ⟨s.sp.val - 1, Nat.lt_of_le_of_lt (Nat.sub_le _ _) s.sp.isLt⟩ } := by
  obtain rfl := Outcome.next.inj h
  obtain ⟨h0, hp⟩ | ⟨h', hpos, hp⟩ := s.pop_cases
  · exact .inl ⟨h0, by rw [hp]⟩
  · exact .inr ⟨h', hpos, by rw [hp]; rfl⟩

/-- CALL in its two cases (R102, R192). -/
theorem exec_call_cases {s t : State} {nnn : Addr} (h : exec (.call nnn) s = .next t) :
    (s.sp.val = 16 ∧ t = s.raise .stackOverflow (encode (.call nnn))) ∨
    ∃ h' : s.sp.val < 16,
      t = { s with
        stack := s.stack.set s.sp.val (s.pc + 2) h'
        sp := ⟨s.sp.val + 1, Nat.succ_lt_succ h'⟩
        pc := addrOperand nnn } := by
  obtain rfl := Outcome.next.inj h
  obtain ⟨h16, hp⟩ | ⟨h', hp⟩ := s.push_cases (s.pc + 2)
  · exact .inl ⟨h16, by rw [hp]⟩
  · exact .inr ⟨h', by rw [hp]; rfl⟩

/-- RET moves SP down by one, and leaves it at 0 (R24, R100). -/
theorem exec_ret_sp {s t : State} (h : exec .ret s = .next t) : t.sp.val = s.sp.val - 1 := by
  obtain ⟨h0, rfl⟩ | ⟨_, -, rfl⟩ := exec_ret_cases h
  · rw [State.raise_sp, h0]
  · rfl

/-- CALL moves SP up by one, and leaves it at 16 (R24, R102). -/
theorem exec_call_sp {s t : State} {nnn : Addr} (h : exec (.call nnn) s = .next t) :
    t.sp.val = min (s.sp.val + 1) 16 := by
  obtain ⟨h16, rfl⟩ | ⟨hlt, rfl⟩ := exec_call_cases h
  · rw [State.raise_sp, h16]
    rfl
  · exact (Nat.min_eq_left hlt).symm

theorem exec_addI {s : State} (hc : s.cfg.addISetsVF = false) (x : Reg) :
    exec (.addI x) s = .next (s.setI (s.i + (s.V x).setWidth 16)).advance :=
  if_neg (Bool.eq_false_iff.1 hc)

theorem exec_ldVxK_none {s : State} (hc : s.cfg.keyWaitOnRelease = false) (hk : s.lowestKey = none) (x : Reg) :
    exec (.ldVxK x) s = .next s := by
  change execLdVxK x s = _
  rw [execLdVxK, hc, hk]
  rfl

theorem exec_ldVxK_some {s : State} (hc : s.cfg.keyWaitOnRelease = false) {k : Fin 16} (hk : s.lowestKey = some k)
    (x : Reg) : exec (.ldVxK x) s = .next (s.setV x (BitVec.ofNat 8 k.val)).advance := by
  change execLdVxK x s = _
  rw [execLdVxK, hc, hk]
  rfl

/-- `Fx1E` that completes found its switch at the default (U3). -/
theorem exec_addI_next {s t : State} {x : Reg} (h : exec (.addI x) s = .next t) :
    s.cfg.addISetsVF = false ∧ t = (s.setI (s.i + (s.V x).setWidth 16)).advance := by
  change execAddI x s = _ at h
  unfold execAddI at h
  split at h
  · cases h
  · next hc => exact ⟨Bool.eq_false_iff.2 hc, (Outcome.next.inj h).symm⟩

/-- `Fx0A` that completes found its switch at the default (U4); it loads the lowest pressed key and advances, or waits. -/
theorem exec_ldVxK_next {s t : State} {x : Reg} (h : exec (.ldVxK x) s = .next t) :
    s.cfg.keyWaitOnRelease = false ∧
      ((s.lowestKey = none ∧ t = s) ∨
        ∃ k, s.lowestKey = some k ∧ t = (s.setV x (BitVec.ofNat 8 k.val)).advance) := by
  change execLdVxK x s = _ at h
  unfold execLdVxK at h
  split at h
  · cases h
  · next hc =>
    refine ⟨Bool.eq_false_iff.2 hc, ?_⟩
    obtain rfl := Outcome.next.inj h
    cases s.lowestKey with
    | none => exact .inl ⟨rfl, rfl⟩
    | some k => exact .inr ⟨k, rfl, rfl⟩

/-- An instruction writes no field but those of its row (R94). -/
theorem exec_takeWrites {i : Instr} {s t : State} (h : exec i s = .next t) : t = s.takeWrites t i := by
  cases i
  case ret =>
    obtain ⟨-, rfl⟩ | ⟨_, -, rfl⟩ := exec_ret_cases h <;> rfl
  case call nnn =>
    obtain ⟨-, rfl⟩ | ⟨_, rfl⟩ := exec_call_cases h <;> rfl
  case addI x =>
    obtain ⟨-, rfl⟩ := exec_addI_next h
    rfl
  case ldVxK x =>
    obtain ⟨-, ⟨-, rfl⟩ | ⟨k, -, rfl⟩⟩ := exec_ldVxK_next h <;> rfl
  case seImm x kk | sneImm x kk | seReg x y | sneReg x y | skp x | sknp x =>
    obtain rfl := Outcome.next.inj h
    rw [State.skipIf_eq]
    rfl
  case orReg x y | andReg x y | xorReg x y =>
    obtain rfl := Outcome.next.inj h
    rw [State.setLogicResult_eq]
    rfl
  case ldB x =>
    obtain rfl := Outcome.next.inj h
    rw [State.memWriteAll_eq]
    rfl
  case ldMemVx x =>
    obtain rfl := Outcome.next.inj h
    rw [State.afterBlock_eq, State.memWriteAll_eq]
    rfl
  case ldVxMem x =>
    obtain rfl := Outcome.next.inj h
    rw [State.afterBlock_eq, State.loadRegs_eq]
    rfl
  all_goals
    obtain rfl := Outcome.next.inj h
    rfl

/-! ### The writers of each field -/

section Writers
variable {i : Instr} {s t : State} (h : exec i s = .next t)
include h

/-- SP is written by CALL and RET alone (R24). -/
theorem exec_sp : i = .ret ∨ (∃ nnn, i = .call nnn) ∨ t.sp = s.sp := by
  have hw := congrArg State.sp (exec_takeWrites h)
  cases i
  case ret => exact .inl rfl
  case call nnn => exact .inr (.inl ⟨nnn, rfl⟩)
  all_goals exact .inr (.inr hw)

/-- The stack is written by CALL alone (R25). -/
theorem exec_stack : (∃ nnn, i = .call nnn) ∨ t.stack = s.stack := by
  have hw := congrArg State.stack (exec_takeWrites h)
  cases i
  case call nnn => exact .inl ⟨nnn, rfl⟩
  all_goals exact .inr hw

/-- The display is written by CLS and DRW alone (R29). -/
theorem exec_fb : i = .cls ∨ (∃ x y n, i = .drw x y n) ∨ t.fb = s.fb := by
  have hw := congrArg State.fb (exec_takeWrites h)
  cases i
  case cls => exact .inl rfl
  case drw x y n => exact .inr (.inl ⟨x, y, n, rfl⟩)
  all_goals exact .inr (.inr hw)

/-- Memory is written by `Fx33` and `Fx55` alone (R50). -/
theorem exec_mem : (∃ x, i = .ldB x) ∨ (∃ x, i = .ldMemVx x) ∨ t.mem = s.mem := by
  have hw := congrArg State.mem (exec_takeWrites h)
  cases i
  case ldB x => exact .inl ⟨x, rfl⟩
  case ldMemVx x => exact .inr (.inl ⟨x, rfl⟩)
  all_goals exact .inr (.inr hw)

/-- No instruction writes PHASE, the outputs or the parameters (R94). -/
theorem exec_phase : t.phase = s.phase := by
  have hw := congrArg State.phase (exec_takeWrites h)
  cases i <;> exact hw

theorem exec_frameOut : t.frameOut = s.frameOut := by
  have hw := congrArg State.frameOut (exec_takeWrites h)
  cases i <;> exact hw

theorem exec_toneActive : t.toneActive = s.toneActive := by
  have hw := congrArg State.toneActive (exec_takeWrites h)
  cases i <;> exact hw

theorem exec_cfg : t.cfg = s.cfg := by
  have hw := congrArg State.cfg (exec_takeWrites h)
  cases i <;> exact hw

/-- RUN is as it was unless the instruction raised: CALL on a full stack, RET on an empty one, the illegal row (R191 to R193). -/
theorem exec_run_cases :
    t.run = s.run ∨
    (i = .ret ∧ s.sp.val = 0 ∧ t = s.raise .stackUnderflow (encode i)) ∨
    (∃ nnn, i = .call nnn ∧ s.sp.val = 16 ∧ t = s.raise .stackOverflow (encode i)) ∨
    (∃ nnn, i = .illegal0nnn nnn ∧ t = s.raise .illegalOpcode (encode i)) := by
  have hw := congrArg State.run (exec_takeWrites h)
  cases i
  case ret =>
    obtain ⟨h0, ht⟩ | ⟨_, -, rfl⟩ := exec_ret_cases h
    · exact .inr (.inl ⟨rfl, h0, ht⟩)
    · exact .inl rfl
  case call nnn =>
    obtain ⟨h16, ht⟩ | ⟨_, rfl⟩ := exec_call_cases h
    · exact .inr (.inr (.inl ⟨nnn, rfl, h16, ht⟩))
    · exact .inl rfl
  case illegal0nnn nnn => exact .inr (.inr (.inr ⟨nnn, rfl, (Outcome.next.inj h).symm⟩))
  all_goals exact .inl hw

end Writers

/-! ### Another I, stack and sound timer beside the same other fields -/

/-- `s` with other values in the three fields that the statements about reading replace: I, the stack and ST. -/
def State.withHidden (s : State) (w : Word) (stk : Vector Word 16) (b : Byte) : State :=
  { s with i := w, stack := stk, st := b }

/-- What an instruction leaves in I (R22, R140 to R145). -/
def State.iAfter (s : State) : Instr → Word
  | .ldI nnn => addrOperand nnn
  | .addI x => s.i + (s.V x).setWidth 16
  | .ldF x => glyphAddr (s.V x)
  | .ldMemVx x | .ldVxMem x => if s.cfg.loadStoreIncI then s.i + BitVec.ofNat 16 (x.val + 1) else s.i
  | _ => s.i

/-- What an instruction leaves on the stack: CALL writes the slot at SP if there is one (R25, R102). -/
def State.stackAfter (s : State) : Instr → Vector Word 16
  | .call _ => s.stack.setIfInBounds s.sp.val (s.pc + 2)
  | _ => s.stack

@[simp] theorem State.memWriteAll_cfg (s : State) (a : Nat) (bs : List Byte) : (s.memWriteAll a bs).cfg = s.cfg := by
  rw [State.memWriteAll_eq]

@[simp] theorem State.loadRegs_cfg (s : State) (rs : List Reg) : (s.loadRegs rs).cfg = s.cfg := by
  rw [State.loadRegs_eq]

section Hidden
variable (s : State) (w : Word) (stk : Vector Word 16) (b : Byte)

theorem State.skipIf_withHidden (c : Bool) :
    (s.withHidden w stk b).skipIf c = (s.skipIf c).withHidden w stk b := by
  cases c <;> rfl

theorem State.setLogicResult_withHidden (x : Reg) (r : Byte) :
    (s.withHidden w stk b).setLogicResult x r = (s.setLogicResult x r).withHidden w stk b := by
  rw [State.setLogicResult_eq, s.setLogicResult_eq]
  unfold State.setLogicResult
  rw [apply_ite State.v, apply_ite State.v]
  rfl

theorem State.memWriteAll_withHidden (a : Nat) (bs : List Byte) :
    (s.withHidden w stk b).memWriteAll a bs = (s.memWriteAll a bs).withHidden w stk b := by
  induction bs generalizing s a with
  | nil => rfl
  | cons c bs ih => exact ih (s.memWrite a c) (a + 1)

theorem State.afterBlock_withHidden (x : Reg) :
    (s.withHidden w stk b).afterBlock x =
      (s.afterBlock x).withHidden (if s.cfg.loadStoreIncI then w + BitVec.ofNat 16 (x.val + 1) else w) stk b := by
  rw [State.afterBlock_eq, State.afterBlock_eq]
  rfl

theorem State.push_withHidden (v : Word) :
    (s.withHidden w stk b).push v =
      (s.push v).map (State.withHidden · w (stk.setIfInBounds s.sp.val v) b) := by
  unfold State.push
  by_cases hsp : s.sp.val < stackDepth
  · rw [dif_pos hsp, dif_pos (show (s.withHidden w stk b).sp.val < stackDepth from hsp)]
    have hset : stk.setIfInBounds s.sp.val v = stk.set s.sp.val v hsp :=
      Vector.ext fun k hk => by rw [Vector.getElem_setIfInBounds, Vector.getElem_set]
    rw [hset]
    rfl
  · rw [dif_neg hsp, dif_neg (show ¬(s.withHidden w stk b).sp.val < stackDepth from hsp)]
    rfl

theorem State.pop_withHidden {s : State} {stk : Vector Word 16}
    (hstk : ∀ k : Nat, k < s.sp.val → stk[k]? = s.stack[k]?) :
    (s.withHidden w stk b).pop = s.pop.map (fun p => (p.1, p.2.withHidden w stk b)) := by
  unfold State.pop
  by_cases hsp : 0 < s.sp.val
  · have hlt : s.sp.val - 1 < 16 := by have := s.sp.isLt; omega
    have he : stk[s.sp.val - 1] = s.stack[s.sp.val - 1] := by
      simpa [hlt] using hstk (s.sp.val - 1) (by omega)
    rw [dif_pos hsp, dif_pos (show 0 < (s.withHidden w stk b).sp.val from hsp)]
    exact congrArg some (Prod.ext he rfl)
  · rw [dif_neg hsp, dif_neg (show ¬0 < (s.withHidden w stk b).sp.val from hsp)]
    rfl

end Hidden

/-- Addresses of the same low 12 bits are the same address (R51). -/
theorem State.memWriteAll_congr (s : State) {a a' : Nat} (ha : a % 4096 = a' % 4096) (bs : List Byte) :
    s.memWriteAll a bs = s.memWriteAll a' bs := by
  induction bs generalizing s a a' with
  | nil => rfl
  | cons b bs ih =>
    have hw : s.memWrite a b = s.memWrite a' b := by simp only [State.memWrite, ha]
    rw [State.memWriteAll, State.memWriteAll, hw]
    exact ih _ (by omega)

section SameLowBits
variable {s : State} {w : Word} (hw : w.toNat % 4096 = s.i.toNat % 4096) (stk : Vector Word 16) (b : Byte)
include hw

theorem State.memRead_ea_withHidden (k : Nat) :
    (s.withHidden w stk b).memRead ((s.withHidden w stk b).ea k) = s.memRead (s.ea k) := by
  have ha : (w.toNat + k) % memSize = (s.i.toNat + k) % memSize := by simp only [memSize]; omega
  exact congrArg s.mem.read ha

theorem State.memWriteAll_ea_withHidden (bs : List Byte) :
    (s.withHidden w stk b).memWriteAll ((s.withHidden w stk b).ea 0) bs =
      (s.memWriteAll (s.ea 0) bs).withHidden w stk b := by
  rw [State.memWriteAll_withHidden]
  exact congrArg (State.withHidden · w stk b) (s.memWriteAll_congr hw bs)

theorem State.loadRegs_withHidden (rs : List Reg) :
    (s.withHidden w stk b).loadRegs rs = (s.loadRegs rs).withHidden w stk b := by
  unfold State.loadRegs
  induction rs generalizing s with
  | nil => rfl
  | cons r rs ih =>
    rw [List.foldl_cons, List.foldl_cons, State.memRead_ea_withHidden hw]
    exact ih (s := s.setV r _) hw

theorem State.drawSprite_withHidden (sx sy n : Nat) :
    (s.withHidden w stk b).drawSprite sx sy n = s.drawSprite sx sy n := by
  unfold State.drawSprite
  simp only [State.memRead_ea_withHidden hw]
  rfl

/-- An instruction started with another I of the same low 12 bits, another stack that agrees below SP and another ST does the
same to every other field (R22, R25, R27). -/
theorem exec_withHidden {stk : Vector Word 16} (hstk : ∀ k : Nat, k < s.sp.val → stk[k]? = s.stack[k]?) {i : Instr}
    {t : State} (h : exec i s = .next t) :
    exec i (s.withHidden w stk b) =
      .next (t.withHidden ((s.withHidden w stk b).iAfter i) ((s.withHidden w stk b).stackAfter i)
        ((s.withHidden w stk b).stAfter i)) := by
  cases i
  case seImm x kk | sneImm x kk | seReg x y | sneReg x y | skp x | sknp x =>
    obtain rfl := Outcome.next.inj h
    exact congrArg Outcome.next (s.skipIf_withHidden w stk b _)
  case orReg x y | andReg x y | xorReg x y =>
    obtain rfl := Outcome.next.inj h
    exact congrArg (Outcome.next ∘ State.advance) (s.setLogicResult_withHidden w stk b x _)
  case ret =>
    obtain rfl := Outcome.next.inj h
    change Outcome.next (match (s.withHidden w stk b).pop with | none => _ | some (target, t) => _) = _
    rw [State.pop_withHidden w b hstk]
    cases s.pop <;> rfl
  case call nnn =>
    obtain rfl := Outcome.next.inj h
    change Outcome.next (match (s.withHidden w stk b).push (s.pc + 2) with | none => _ | some t => _) = _
    rw [State.push_withHidden]
    obtain ⟨h16, hp⟩ | ⟨_, hp⟩ := s.push_cases (s.pc + 2)
    · have hfull : (s.withHidden w stk b).stackAfter (.call nnn) = stk :=
        Vector.setIfInBounds_eq_of_size_le (Nat.le_of_eq h16.symm)
      rw [hp, hfull]
      rfl
    · rw [hp]
      rfl
  case addI x =>
    obtain ⟨hc, rfl⟩ := exec_addI_next h
    exact exec_addI (s := s.withHidden w stk b) hc x
  case ldVxK x =>
    obtain ⟨hc, ⟨hk, rfl⟩ | ⟨k, hk, rfl⟩⟩ := exec_ldVxK_next h
    · exact exec_ldVxK_none (s := t.withHidden w stk b) hc hk x
    · exact exec_ldVxK_some (s := s.withHidden w stk b) hc hk x
  case drw x y n =>
    obtain rfl := Outcome.next.inj h
    change Outcome.next (State.advance (State.setV (State.setFB _ (State.drawSprite _ _ _ _).1) _ _)) = _
    rw [State.drawSprite_withHidden hw]
    rfl
  case ldB x =>
    obtain rfl := Outcome.next.inj h
    exact congrArg (Outcome.next ∘ State.advance) (State.memWriteAll_ea_withHidden hw stk b _)
  case ldMemVx x =>
    obtain rfl := Outcome.next.inj h
    change Outcome.next (State.advance (State.afterBlock (State.memWriteAll _ _ _) x)) = _
    rw [State.memWriteAll_ea_withHidden hw, State.afterBlock_withHidden, State.memWriteAll_cfg]
    rfl
  case ldVxMem x =>
    obtain rfl := Outcome.next.inj h
    change Outcome.next (State.advance (State.afterBlock (State.loadRegs _ _) x)) = _
    rw [State.loadRegs_withHidden hw, State.afterBlock_withHidden, State.loadRegs_cfg]
    rfl
  all_goals
    obtain rfl := Outcome.next.inj h
    rfl

end SameLowBits

/-- What an instruction leaves in I, on the stack and in ST (R22, R25, R27). -/
theorem exec_hidden {i : Instr} {s t : State} (h : exec i s = .next t) :
    t.i = s.iAfter i ∧ t.stack = s.stackAfter i ∧ t.st = s.stAfter i := by
  have ht : exec i s = .next (t.withHidden (s.iAfter i) (s.stackAfter i) (s.stAfter i)) :=
    exec_withHidden (s := s) rfl s.st (fun _ _ => rfl) h
  have he := Outcome.next.inj (h.symm.trans ht)
  exact ⟨congrArg State.i he, congrArg State.stack he, congrArg State.st he⟩

/-- I is written by `Annn`, `Fx1E` and `Fx29` alone, and by the block transfers under `QUIRK_LOADSTORE_INC_I` (R22, U2). -/
theorem exec_i {i : Instr} {s t : State} (h : exec i s = .next t) :
    (∃ nnn, i = .ldI nnn) ∨ (∃ x, i = .addI x) ∨ (∃ x, i = .ldF x) ∨
      (s.cfg.loadStoreIncI = true ∧ ((∃ x, i = .ldMemVx x) ∨ ∃ x, i = .ldVxMem x)) ∨ t.i = s.i := by
  have hi := (exec_hidden h).1
  cases i
  case ldI nnn => exact .inl ⟨nnn, rfl⟩
  case addI x => exact .inr (.inl ⟨x, rfl⟩)
  case ldF x => exact .inr (.inr (.inl ⟨x, rfl⟩))
  case ldMemVx x | ldVxMem x =>
    by_cases hq : s.cfg.loadStoreIncI = true
    · exact .inr (.inr (.inr (.inl ⟨hq, by simp⟩)))
    · exact .inr (.inr (.inr (.inr (hi.trans (if_neg hq)))))
  all_goals exact .inr (.inr (.inr (.inr hi)))

/-! ### What is left in I, on the stack and in ST

What is left in I, on the stack and in ST depends on no other of the three. -/

theorem State.iAfter_same_i (s : State) (stk : Vector Word 16) (b : Byte) (i : Instr) :
    (s.withHidden s.i stk b).iAfter i = s.iAfter i := by cases i <;> rfl

theorem State.stackAfter_same_stack (s : State) (w : Word) (b : Byte) (i : Instr) :
    (s.withHidden w s.stack b).stackAfter i = s.stackAfter i := by cases i <;> rfl

theorem State.stAfter_same_st (s : State) (w : Word) (stk : Vector Word 16) (i : Instr) :
    (s.withHidden w stk s.st).stAfter i = s.stAfter i := by cases i <;> rfl

/-- What an instruction leaves in I has the same low 12 bits if what it found there had (R22). -/
theorem State.iAfter_mod {s : State} {w : Word} (hw : w.toNat % 4096 = s.i.toNat % 4096) (stk : Vector Word 16) (b : Byte)
    (i : Instr) : ((s.withHidden w stk b).iAfter i).toNat % 4096 = (s.iAfter i).toNat % 4096 := by
  have hadd (d : Word) : (w + d).toNat % 4096 = (s.i + d).toNat % 4096 := by
    simp only [BitVec.toNat_add]; omega
  cases i
  case ldI nnn | ldF x => rfl
  case addI x => exact hadd _
  case ldMemVx x | ldVxMem x =>
    change BitVec.toNat (if s.cfg.loadStoreIncI then _ else _) % 4096 =
      BitVec.toNat (if s.cfg.loadStoreIncI then _ else _) % 4096
    split
    · exact hadd _
    · exact hw
  all_goals exact hw

/-- Stacks that agree below SP agree below the SP that the instruction leaves (R25). -/
theorem exec_stackAfter_agree {i : Instr} {s t : State} (h : exec i s = .next t) (w : Word) {stk : Vector Word 16} (b : Byte)
    (hstk : ∀ k : Nat, k < s.sp.val → stk[k]? = s.stack[k]?) (k : Nat) (hk : k < t.sp.val) :
    ((s.withHidden w stk b).stackAfter i)[k]? = (s.stackAfter i)[k]? := by
  have hsp := congrArg State.sp (exec_takeWrites h)
  cases i
  case ret =>
    obtain ⟨-, rfl⟩ | ⟨_, -, rfl⟩ := exec_ret_cases h
    · exact hstk k hk
    · exact hstk k (Nat.lt_of_lt_of_le hk (Nat.sub_le _ _))
  case call nnn =>
    have hle : k = s.sp.val ∨ k < s.sp.val := by
      obtain ⟨-, rfl⟩ | ⟨_, rfl⟩ := exec_call_cases h
      · exact .inr hk
      · exact Nat.eq_or_lt_of_le (Nat.le_of_lt_succ hk)
    change (stk.setIfInBounds s.sp.val (s.pc + 2))[k]? = (s.stack.setIfInBounds s.sp.val (s.pc + 2))[k]?
    rw [Vector.getElem?_setIfInBounds, Vector.getElem?_setIfInBounds]
    split
    · rfl
    · exact hstk k (by omega)
  all_goals
    rw [hsp] at hk
    exact hstk k hk

/-- Settles O48: I is used as an address, whose bits 15..12 the mask drops, or added to. -/
theorem highBitsOfIAreNotObservable : Obligations.HighBitsOfIAreNotObservable := by
  intro i s t w hw h
  obtain ⟨hi, hstack, hst⟩ := exec_hidden h
  have hx := exec_withHidden hw s.st (fun _ _ => rfl) h
  rw [State.stackAfter_same_stack, State.stAfter_same_st, ← hstack, ← hst] at hx
  exact ⟨_, hx, hi ▸ State.iAfter_mod hw _ _ i⟩

/-- Settles O49: RET reads the entry below SP, CALL writes the one at SP. -/
theorem deadStackEntriesAreNotRead : Obligations.DeadStackEntriesAreNotRead := by
  intro i s t stk hstk h
  obtain ⟨hi, hstack, hst⟩ := exec_hidden h
  have hx := exec_withHidden (w := s.i) rfl s.st hstk h
  rw [State.iAfter_same_i, State.stAfter_same_st, ← hi, ← hst] at hx
  exact ⟨_, hx, hstack ▸ exec_stackAfter_agree h s.i s.st hstk⟩

/-- Settles O47: what is left in ST is V[x] after `Fx18`, else what was found there. -/
theorem noInstructionReadsST : Obligations.NoInstructionReadsST := by
  intro i s t b h
  obtain ⟨hi, hstack, hst⟩ := exec_hidden h
  have hx := exec_withHidden (w := s.i) rfl b (fun _ _ => rfl) h
  rw [State.iAfter_same_i, State.stackAfter_same_stack, ← hi, ← hstack] at hx
  refine ⟨_, hx, ?_, fun hne => ?_⟩
  · rintro ⟨x, rfl⟩
    exact hst.symm
  · cases i
    case ldSTVx x => exact absurd rfl (hne x)
    all_goals rfl

/-- Settles O45: one lemma for the writers of each field. -/
theorem onlyTheListedWriters : Obligations.OnlyTheListedWriters := fun _ _ _ h =>
  ⟨exec_i h, exec_sp h, exec_stack h, exec_fb h, exec_mem h⟩

/-! ### VF (R21) -/

/-- A flag as VF holds it (R21). -/
theorem flagByte_zero_or_one (c : Bool) : flagByte c = 0 ∨ flagByte c = 1 := by cases c <;> simp [flagByte]

/-- Settles O46: the flag write is the last one, and a result goes to V[x] alone. -/
theorem flagWritersOfVF : Obligations.FlagWritersOfVF := by
  intro i s t h
  have hv := congrArg (State.V · 15) (exec_takeWrites h)
  cases i
  case addReg x y | subReg x y | subnReg x y | shr x y | shl x y =>
    obtain rfl := Outcome.next.inj h
    change (State.setResultFlag _ _ _ _).V 15 = 0 ∨ (State.setResultFlag _ _ _ _).V 15 = 1
    rw [State.V_setResultFlag, if_pos rfl]
    exact flagByte_zero_or_one _
  case drw x y n =>
    obtain rfl := Outcome.next.inj h
    change (State.setV _ regF _).V regF = 0 ∨ (State.setV _ regF _).V regF = 1
    rw [State.V_setV_same]
    exact flagByte_zero_or_one _
  case orReg x y | andReg x y | xorReg x y =>
    intro hx hq
    obtain rfl := Outcome.next.inj h
    change (State.setLogicResult _ _ _).V 15 = _
    rw [State.V_setLogicResult, if_neg (by simp [hq]), if_neg hx.symm]
  case ldImm x kk | addImm x kk | ldReg x y | rnd x kk | ldVxDT x =>
    intro hx
    obtain rfl := Outcome.next.inj h
    exact State.V_setV_ne _ _ hx.symm
  case ldVxK x =>
    intro hx
    obtain ⟨-, ⟨-, rfl⟩ | ⟨k, -, rfl⟩⟩ := exec_ldVxK_next h
    · rfl
    · exact State.V_setV_ne _ _ hx.symm
  case ldVxMem x =>
    intro hx
    obtain rfl := Outcome.next.inj h
    change (State.afterBlock _ _).V 15 = _
    have hlt : ¬15 ≤ x := fun hle => hx (le_antisymm (Fin.le_last x) hle)
    rw [State.afterBlock_eq, State.setI_V, State.V_loadRegs, if_neg (mt mem_regsUpTo.1 hlt)]
  all_goals exact hv

/-! ### One step, down to the instruction -/

/-- A step that gives a next state: nothing on a stopped machine; a stop at a frame boundary; a raise for a word that decodes
to nothing; or the decoded instruction between the start and the end of the step (R210, R92). -/
theorem step_next_cases {s t : State} (h : step s = .next t) :
    (s.run = .stopped ∧ t = s) ∨
    (s.run = .running ∧ s.beginStep.run ≠ .running ∧ t = s.beginStep) ∨
    (s.run = .running ∧ s.beginStep.run = .running ∧ ∃ r, decodeWord s.fetch = .error r ∧
      t = s.beginStep.raise .illegalOpcode s.fetch) ∨
    (s.run = .running ∧ s.beginStep.run = .running ∧ ∃ i u, decodeWord s.fetch = .ok i ∧
      exec i s.beginStep = .next u ∧ t = u.endStep) := by
  obtain hst | ⟨hr, -, ⟨hb, ht⟩ | ⟨hb, u, hu, rfl⟩⟩ := step_cases h
  · exact .inl hst
  · exact .inr (.inl ⟨hr, hb, ht⟩)
  · obtain ⟨i, hd, he⟩ | ⟨r, hd, rfl⟩ := State.instrStep_cases hu
    · exact .inr (.inr (.inr ⟨hr, hb, i, u, s.beginStep_fetch ▸ hd, he, rfl⟩))
    · refine .inr (.inr (.inl ⟨hr, hb, r, s.beginStep_fetch ▸ hd, ?_⟩))
      rw [State.endStep, if_neg (by simp), State.beginStep_fetch]

/-- A Halted machine hands over its record (R31, R196). -/
theorem step_halted {s : State} {kind : FaultKind} {pc op : Word} (h : s.run = .halted kind pc op) :
    step s = .fault (.halted kind pc op) := by
  rw [step, State.cycle, h]

/-- A Stopped machine stays as it is (R215). -/
theorem step_stopped {s : State} (h : s.run = .stopped) : step s = .next s := by
  rw [step, State.cycle, h]

/-- Settles O11: the two branches of the step on a machine that is not Running. -/
theorem nothingChangesUntilReset : Obligations.NothingChangesUntilReset :=
  fun _ => ⟨fun _ _ _ => step_halted, step_stopped⟩

/-! ### The stack along a run (R24, R36) -/

/-- A machine that is not Running, or that line 0 stops, runs no instruction. -/
theorem State.executes_eq_none {s : State} (h : ¬(s.run = .running ∧ s.beginStep.run = .running)) :
    s.executes = none := if_neg h

theorem State.executes_of_error {s : State} {r : Reject} (hd : decodeWord s.fetch = .error r) : s.executes = none := by
  rw [State.executes, hd]
  exact ite_self _

theorem State.executes_of_ok {s : State} {i : Instr} (hr : s.run = .running) (hb : s.beginStep.run = .running)
    (hd : decodeWord s.fetch = .ok i) : s.executes = some i := by
  rw [State.executes, if_pos ⟨hr, hb⟩, hd]

/-- The balance of one step: SP goes up by one for a CALL it completes, down by one for a RET. -/
def State.balanced (s t : State) : Prop :=
  t.sp.val + (if s.completesRet then 1 else 0) = s.sp.val + (if s.completesCall then 1 else 0)

theorem State.balanced_of_executes_none {s t : State} (he : s.executes = none) (ht : t.sp = s.sp) : s.balanced t := by
  simp [State.balanced, State.completesRet, State.completesCall, he, ht]

theorem State.balanced_of_exec {s u : State} {i : Instr} (he : s.executes = some i)
    (h : exec i s.beginStep = .next u) : s.balanced u := by
  unfold State.balanced State.completesRet State.completesCall
  rw [he]
  cases i
  case ret =>
    have hsp := exec_ret_sp h
    rw [State.beginStep_sp] at hsp
    change u.sp.val + (if decide (0 < s.sp.val) then 1 else 0) = s.sp.val
    simp only [decide_eq_true_eq]
    split <;> omega
  case call nnn =>
    have hsp := exec_call_sp h
    rw [State.beginStep_sp] at hsp
    change u.sp.val = s.sp.val + (if decide (s.sp.val < 16) then 1 else 0)
    simp only [decide_eq_true_eq]
    split <;> omega
  all_goals
    have hsp := congrArg State.sp (exec_takeWrites h)
    exact congrArg Fin.val (hsp.trans s.beginStep_sp)

/-- Every step balances. -/
theorem step_balanced {s t : State} (h : step s = .next t) : s.balanced t := by
  obtain ⟨hs, rfl⟩ | ⟨-, hb, rfl⟩ | ⟨-, -, r, hd, rfl⟩ | ⟨hr, hb, i, u, hd, he, rfl⟩ := step_next_cases h
  · exact State.balanced_of_executes_none (State.executes_eq_none (by simp [hs])) rfl
  · exact State.balanced_of_executes_none (State.executes_eq_none (fun hrun => hb hrun.2)) s.beginStep_sp
  · exact State.balanced_of_executes_none (State.executes_of_error hd) s.beginStep_sp
  · have hu : s.balanced u := State.balanced_of_exec (State.executes_of_ok hr hb hd) he
    rwa [State.balanced, State.endStep_sp]

/-- A run of one step more counts its first state, then the rest. -/
theorem tally_succ (p : State → Bool) (k : Nat) {s u : State} (h : step s = .next u) :
    tally p (k + 1) s = (if p s then 1 else 0) + tally p k u := by
  rw [tally, h]

/-- Settles O51, by induction on the number of steps: every step balances. -/
theorem stackDiscipline : Obligations.StackDiscipline := by
  intro k
  induction k with
  | zero =>
    intro s t h
    cases h
    rfl
  | succ k ih =>
    intro s t h
    obtain ⟨u, hu, hrun⟩ := run_first h
    have hrest := ih u t hrun
    have hfirst := step_balanced hu
    rw [tally_succ _ _ hu, tally_succ _ _ hu]
    unfold State.balanced at hfirst
    omega

/-! ### The invariant (R36) -/

/-- An instruction keeps the canonical form of memory (R36 (1), R51). -/
theorem exec_mem_wf {i : Instr} {s t : State} (h : exec i s = .next t) (hs : s.mem.wf = true) : t.mem.wf = true := by
  obtain ⟨x, rfl⟩ | ⟨x, rfl⟩ | hm := exec_mem h
  · obtain rfl := Outcome.next.inj h
    exact State.wf_memWriteAll hs _ _
  · obtain rfl := Outcome.next.inj h
    change (State.afterBlock _ x).mem.wf = true
    rw [State.afterBlock_eq]
    exact State.wf_memWriteAll hs _ _
  · rwa [hm]

theorem State.recordTrue_of_running {s : State} (h : s.run = .running) : s.recordTrue := by
  rw [State.recordTrue, h]
  trivial

/-- An illegal word is fetched: the record of the raise is true (R191). -/
theorem State.recordTrue_raise_illegalOpcode {s : State} (hl : legalWord s.fetch = false) :
    (s.raise .illegalOpcode s.fetch).recordTrue := ⟨rfl, rfl, hl⟩

/-- A word that decodes to an instruction of no legal row is no legal word. -/
theorem legalWord_of_decodeWord {op : Word} {i : Instr} (hd : decodeWord op = .ok i) : legalWord op = i.legal := by
  rw [legalWord, hd]

theorem legalWord_of_error {op : Word} {r : Reject} (hd : decodeWord op = .error r) : legalWord op = false := by
  rw [legalWord, hd]

/-- The fault record that a fetched instruction leaves is true (R191 to R195). -/
theorem exec_recordTrue {i : Instr} {s t : State} (hr : s.run = .running) (hd : decodeWord s.fetch = .ok i)
    (h : exec i s = .next t) : t.recordTrue := by
  have hw : encode i = s.fetch := encode_of_decodeWord hd
  obtain hrun | ⟨rfl, h0, rfl⟩ | ⟨nnn, rfl, h16, rfl⟩ | ⟨nnn, rfl, rfl⟩ := exec_run_cases h
  · exact State.recordTrue_of_running (hrun.trans hr)
  · exact ⟨rfl, hw, rfl, Fin.ext h0⟩
  · have hc : (fieldC (encode (.call nnn))).toNat = 2 := fieldC_encNNN (by decide) nnn
    exact ⟨rfl, hw, BitVec.eq_of_toNat_eq hc, Fin.ext h16⟩
  · rw [hw]
    exact State.recordTrue_raise_illegalOpcode (legalWord_of_decodeWord hd)

/-- The start of a step keeps the invariant: a stop falls at a frame boundary (R215). -/
theorem State.beginStep_inv {s : State} (h : s.Inv) (hr : s.run = .running) : s.beginStep.Inv := by
  obtain ⟨hmem, hcfg, hphase, -, hout⟩ := h
  obtain ⟨-, hb⟩ | ⟨h0, -, hb⟩ | ⟨-, -, hb⟩ := s.beginStep_cases
  · rw [hb]; exact ⟨hmem, hcfg, hphase, State.recordTrue_of_running hr, hout⟩
  · rw [hb]; exact ⟨hmem, hcfg, hphase, h0, hout⟩
  · rw [hb]; exact ⟨hmem, hcfg, hphase, State.recordTrue_of_running hr, hout⟩

/-- A fetched instruction keeps the invariant. -/
theorem exec_inv {i : Instr} {s t : State} (hs : s.Inv) (hr : s.run = .running) (hd : decodeWord s.fetch = .ok i)
    (h : exec i s = .next t) : t.Inv where
  mem := exec_mem_wf h hs.mem
  cfg := by rw [exec_cfg h]; exact hs.cfg
  phase := by rw [exec_phase h, exec_cfg h]; exact hs.phase
  record := exec_recordTrue hr hd h
  outputs := by rw [exec_frameOut h, exec_toneActive h]; exact hs.outputs

/-- The end of a step keeps the invariant: the N-th step of a frame sets PHASE to 0 and drives both outputs (R210). -/
theorem State.endStep_inv {s : State} (h : s.Inv) : s.endStep.Inv := by
  obtain ⟨-, he⟩ | ⟨hr, hlt, he⟩ | ⟨hr, -, he⟩ := s.endStep_cases
  · rw [he]; exact h
  · rw [he]
    exact ⟨h.mem, h.cfg, hlt, State.recordTrue_of_running hr, h.outputs⟩
  · rw [he]
    exact ⟨h.mem, h.cfg, Nat.lt_of_le_of_lt (Nat.zero_le _) h.phase, State.recordTrue_of_running hr, rfl⟩

/-- Settles O54: the start of the step, the instruction or the raise, and the end of the step each keep the invariant. -/
theorem everyStepKeepsTheInvariant : Obligations.EveryStepKeepsTheInvariant := by
  intro s t hs h
  obtain ⟨-, rfl⟩ | ⟨hr, -, rfl⟩ | ⟨hr, -, r, hd, rfl⟩ | ⟨hr, hb, i, u, hd, he, rfl⟩ := step_next_cases h
  · exact hs
  · exact State.beginStep_inv hs hr
  · obtain ⟨hmem, hcfg, hphase, -, hout⟩ := State.beginStep_inv hs hr
    rw [← s.beginStep_fetch] at hd ⊢
    exact ⟨hmem, hcfg, hphase, State.recordTrue_raise_illegalOpcode (legalWord_of_error hd), hout⟩
  · rw [← s.beginStep_fetch] at hd
    exact State.endStep_inv (exec_inv (State.beginStep_inv hs hr) hb hd he)

/-- Settles O55: no byte is listed, PHASE is 0 and no output has been driven. -/
theorem resetMeetsTheInvariant : Obligations.ResetMeetsTheInvariant where
  mem := Memory.wf_nil
  cfg := by decide
  phase := by decide
  record := State.recordTrue_of_running rfl
  outputs := rfl

/-! ### Reset with an image (R37, R230) -/

/-- The state that reset with an image leaves: font and image in the blank state (R230, R231). -/
def State.booted (cfg : Config) (env : Env) (rom : List Byte) : State :=
  ((State.blank cfg env).memWriteAll 0 cfg.font.toList).memWriteAll progBase rom

section Boot
variable (cfg : Config) (env : Env) {rom : List Byte}

/-- Font and image are memory; every other field is as in the blank state. -/
theorem State.booted_eq (rom : List Byte) :
    State.booted cfg env rom = { State.blank cfg env with mem := (State.booted cfg env rom).mem } := by
  unfold State.booted
  rw [State.memWriteAll_eq, State.memWriteAll_eq (State.blank cfg env)]

/-- The font alone leaves memory in its canonical form. -/
theorem State.blank_font_wf : ((State.blank cfg env).memWriteAll 0 cfg.font.toList).mem.wf = true :=
  State.wf_memWriteAll (State.blank_wf cfg env) _ _

/-- An address outside the image reads as the font left it. -/
theorem State.booted_memRead_outside (hl : rom.length ≤ romMax) {a : Nat}
    (ha : a < 0x200 ∨ 0x200 + rom.length ≤ a ∧ a < 4096) :
    (State.booted cfg env rom).memRead a = ((State.blank cfg env).memWriteAll 0 cfg.font.toList).memRead a := by
  refine State.memRead_memWriteAll_of_ne (State.blank_font_wf cfg env) _ _ _ fun j hj => ?_
  simp only [memSize, progBase, romMax] at *
  omega

/-- Above the font, before the image is stored, every byte is 0. -/
theorem State.blank_font_memRead_above {a : Nat} (h80 : 80 ≤ a) (ha : a < 4096) :
    ((State.blank cfg env).memWriteAll 0 cfg.font.toList).memRead a = 0 := by
  rw [State.memRead_memWriteAll_of_ne (State.blank_wf cfg env)]
  · rw [State.memRead, Nat.mod_eq_of_lt ha]
    exact Memory.background_of_le h80
  · intro j hj
    rw [Vector.length_toList] at hj
    simp only [memSize]
    omega

/-- The font of the parameters stands in the first 80 bytes (R32, R230). -/
theorem State.booted_memRead_font (hl : rom.length ≤ romMax) (k : Nat) (hk : k < 80) :
    (State.booted cfg env rom).memRead k = cfg.font[k] := by
  have hfont := State.memRead_memWriteAll (State.blank_wf cfg env) 0 cfg.font.toList (by simp [memSize]) k (by simpa using hk)
  rw [Nat.zero_add] at hfont
  rw [State.booted_memRead_outside cfg env hl (.inl (by omega)), hfont, Vector.getElem_toList]

/-- Between font and image, and above the image, every byte is 0 (R37). -/
theorem State.booted_memRead_zero (hl : rom.length ≤ romMax) {a : Nat} (h80 : 80 ≤ a)
    (ha : a < 0x200 ∨ 0x200 + rom.length ≤ a ∧ a < 4096) : (State.booted cfg env rom).memRead a = 0 := by
  rw [State.booted_memRead_outside cfg env hl ha]
  exact State.blank_font_memRead_above cfg env h80 (by omega)

/-- The image stands from 0x200 upward (R231). -/
theorem State.booted_memRead_image (hl : rom.length ≤ romMax) (k : Nat) (hk : k < rom.length) :
    (State.booted cfg env rom).memRead (0x200 + k) = rom[k] :=
  State.memRead_memWriteAll (State.blank_font_wf cfg env) 0x200 rom (by simp only [memSize, romMax] at *; omega) k hk

/-- The state after reset with an image meets the invariant (R36, R37). -/
theorem State.booted_inv (rom : List Byte) (hc : cfg.supported = true) : (State.booted cfg env rom).Inv := by
  have hmem : (State.booted cfg env rom).mem.wf = true := boot_mem_wf cfg env rom
  have hN : 1 ≤ cfg.stepsPerFrame := by
    simp only [Config.supported, Bool.and_eq_true, decide_eq_true_eq] at hc
    omega
  rw [State.booted_eq]
  exact ⟨hmem, hc, hN, trivial, rfl⟩

end Boot

/-- Settles O58: font and image are read back from memory, every other field is the blank state's. -/
theorem resetState : Obligations.ResetState := by
  intro cfg env rom hc hl
  have hb := State.booted_eq cfg env rom
  refine ⟨State.booted cfg env rom, boot_eq env hc hl, State.booted_inv cfg env rom hc, congrArg (·.pc.toNat) hb,
    congrArg State.i hb, congrArg (·.sp.val) hb, fun r => ?_, fun k hk => ?_, congrArg State.dt hb, congrArg State.st hb,
    congrArg State.keys hb, fun cx cy => ?_, congrArg State.run hb, congrArg State.phase hb, congrArg State.frameOut hb,
    congrArg State.toneActive hb, congrArg State.env hb, congrArg State.cfg hb,
    State.booted_memRead_font cfg env hl, fun a h80 ha => State.booted_memRead_zero cfg env hl h80 (.inl ha),
    State.booted_memRead_image cfg env hl,
    fun a ha hlt => State.booted_memRead_zero cfg env hl (by omega) (.inr ⟨ha, hlt⟩)⟩
  · have hv : (Vector.replicate 16 (0 : Byte))[r.val] = 0 := Vector.getElem_replicate _
    exact (congrArg (State.V · r) hb).trans hv
  · have hstack : (Vector.replicate 16 (0 : Word))[k]? = some 0 := by simp [hk]
    exact (congrArg (·.stack[k]?) hb).trans hstack
  · exact (congrArg (·.fb.get cx cy) hb).trans (Display.get_blank cx cy)

end Sys2Proof.Machine

/-! ## Memory (spec/20_memory.md): the fetch (R54), and a store seen by the next one (R60) -/

namespace Sys2Proof.Machine

/-- The first of two bytes, times 256, plus the second: nothing is lost, for both are below 256. -/
theorem toNat_wordOfBytes (hi lo : Byte) : (wordOfBytes hi lo).toNat = hi.toNat * 256 + lo.toNat := by
  have hhi := hi.isLt
  have hlo := lo.isLt
  rw [wordOfBytes, BitVec.toNat_ofNat]
  omega

@[simp] theorem State.memWriteAll_pc (s : State) (a : Nat) (bs : List Byte) : (s.memWriteAll a bs).pc = s.pc := by
  rw [State.memWriteAll_eq]

/-- A word stored at PC, byte by byte, is the word fetched; PC need not be below 4096. -/
theorem State.fetch_memWriteAll_bytesOfWord {s : State} (h : s.mem.wf = true) (op : Word) :
    (s.memWriteAll s.pc.toNat (bytesOfWord op)).fetch = op := by
  have hread := State.memRead_memWriteAll h s.pc.toNat (bytesOfWord op) (by simp [bytesOfWord, memSize])
  have hhi := hread 0 (by simp [bytesOfWord])
  have hlo := hread 1 (by simp [bytesOfWord])
  rw [Nat.add_zero] at hhi
  rw [State.fetch, State.memWriteAll_pc, hhi, hlo]
  exact wordOfBytes_bytesOfWord op

/-- Settles O8: the masked bytes at PC and PC + 1 are the two bytes of the word. -/
theorem fetchIsBigEndian : Obligations.FetchIsBigEndian :=
  fun s => toNat_wordOfBytes (s.memRead s.pc.toNat) (s.memRead (s.pc.toNat + 1))

/-- Settles O31: the two stores are the bytes of the word written from PC upward. -/
theorem fetchSeesAStore : Obligations.FetchSeesAStore :=
  fun _ op hwf => State.fetch_memWriteAll_bytesOfWord hwf op

end Sys2Proof.Machine

/-! ## Encoding (spec/30_encoding.md): decoder and encoder undo each other, the opcode map, the illegal words -/

namespace Sys2Proof

/-! ### The decoder on the word of an instruction (R72, R75) -/

/-- A word of the row `0nnn` that is neither CLS nor RET stays in the row (R77). -/
theorem decodeWord_encode_illegal0nnn {nnn : Addr} (h : (Instr.illegal0nnn nnn).wellFormed = true) :
    decodeWord (encode (.illegal0nnn nnn)) = .ok (.illegal0nnn nnn) := by
  have hn : fieldNNN (encNNN 0 nnn) = nnn := fieldNNN_encNNN (by decide) nnn
  simp only [Instr.wellFormed, Bool.and_eq_true, decide_eq_true_eq] at h
  obtain ⟨hE0, hEE⟩ := h
  have hcls : encNNN 0 nnn ≠ 0x00E0#16 := fun he => hE0 (hn.symm.trans (congrArg fieldNNN he))
  have hret : encNNN 0 nnn ≠ 0x00EE#16 := fun he => hEE (hn.symm.trans (congrArg fieldNNN he))
  simp [encode, decodeWord, fieldC_encNNN, decode0, hcls, hret, hn]

/-- The word of an instruction decodes to it, by the instruction's format (R72). -/
theorem decodeWord_encode {i : Instr} (h : i.wellFormed = true) : decodeWord (encode i) = .ok i := by
  cases i
  case cls | ret => rfl
  case illegal0nnn nnn => exact decodeWord_encode_illegal0nnn h
  case jp | call | ldI | jpV0 => simp [encode, decodeWord, fieldC_encNNN, fieldNNN_encNNN]
  case seImm | sneImm | ldImm | addImm | rnd => simp [encode, decodeWord, fieldC_encXKK, fieldX_encXKK, fieldKK_encXKK]
  case seReg | sneReg =>
    simp [encode, decodeWord, decodeXY0, fieldC_encXYN, fieldX_encXYN, fieldY_encXYN, fieldN_encXYN]
  case ldReg | orReg | andReg | xorReg | addReg | subReg | shr | subnReg | shl =>
    simp [encode, decodeWord, decode8, fieldC_encXYN, fieldX_encXYN, fieldY_encXYN, fieldN_encXYN]
  case drw => simp [encode, decodeWord, fieldC_encXYN, fieldX_encXYN, fieldY_encXYN, fieldN_encXYN]
  case skp | sknp => simp [encode, decodeWord, decodeE, fieldC_encXKK, fieldX_encXKK, fieldKK_encXKK]
  case ldVxDT | ldVxK | ldDTVx | ldSTVx | addI | ldF | ldB | ldMemVx | ldVxMem =>
    simp [encode, decodeWord, decodeF, fieldC_encXKK, fieldX_encXKK, fieldKK_encXKK]

/-- Settles O2: the fields of a word of a format are the operands it was made of. -/
theorem decodeOfEncode : Obligations.DecodeOfEncode := fun _ => decodeWord_encode

/-! ### The instruction of a word (R74) -/

/-- The decoder gives a `0nnn` word to the illegal row only past the tests for CLS and RET (R77). -/
theorem wellFormed_of_decodeWord {op : Word} {i : Instr} (h : decodeWord op = .ok i) : i.wellFormed = true := by
  cases i
  case illegal0nnn nnn =>
    have he : encode (.illegal0nnn nnn) = op := encode_of_decodeWord h
    have hcls : nnn ≠ 0x0E0#12 := by rintro rfl; subst he; cases h
    have hret : nnn ≠ 0x0EE#12 := by rintro rfl; subst he; cases h
    simp [Instr.wellFormed, hcls, hret]
  all_goals rfl

/-- Settles O3: the fields make up the whole word. -/
theorem encodeOfDecode : Obligations.EncodeOfDecode :=
  fun _ _ h => ⟨wellFormed_of_decodeWord h, encode_of_decodeWord h⟩

/-! ### The opcode map (R75) -/

section Rows
open Laws

/-- Every instruction's word lies in the instruction's row. -/
theorem encode_and_opcodeRow (i : Instr) : encode i &&& i.opcodeRow.2 = i.opcodeRow.1 := by
  cases i
  exacts [TableRow.cls, TableRow.ret, TableRow.jp _, TableRow.call _, TableRow.seImm _ _, TableRow.sneImm _ _,
    TableRow.seReg _ _, TableRow.ldImm _ _, TableRow.addImm _ _, TableRow.ldReg _ _, TableRow.orReg _ _,
    TableRow.andReg _ _, TableRow.xorReg _ _, TableRow.addReg _ _, TableRow.subReg _ _, TableRow.shr _ _,
    TableRow.subnReg _ _, TableRow.shl _ _, TableRow.sneReg _ _, TableRow.ldI _, TableRow.jpV0 _, TableRow.rnd _ _,
    TableRow.drw _ _ _, TableRow.skp _, TableRow.sknp _, TableRow.ldVxDT _, TableRow.ldVxK _, TableRow.ldDTVx _,
    TableRow.ldSTVx _, TableRow.addI _, TableRow.ldF _, TableRow.ldB _, TableRow.ldMemVx _, TableRow.ldVxMem _,
    TableRow.illegal0nnn _]

end Rows

/-- Well-formedness excludes words of the illegal row alone. -/
theorem Instr.wellFormed_of_legal {i : Instr} (h : i.legal = true) : i.wellFormed = true := by
  cases i
  case illegal0nnn => cases h
  all_goals rfl

section Masked
variable {op p : Word} {c : Nat}

theorem fieldC_of_and_F000 (hp : p.toNat = c * 4096) (h : op &&& 0xF000 = p) : (fieldC op).toNat = c := by
  have := mask_F000 op
  rw [h, hp] at this
  rw [fieldC_toNat]
  omega

theorem encNNN_of_masked (hp : p.toNat = c * 4096) (h : op &&& 0xF000 = p) : encNNN c (fieldNNN op) = op :=
  encNNN_of_fields (fieldC_of_and_F000 hp h)

theorem encXKK_of_masked (hp : p.toNat = c * 4096) (h : op &&& 0xF000 = p) :
    encXKK c (fieldX op) (fieldKK op) = op :=
  encXKK_of_fieldC (fieldC_of_and_F000 hp h)

theorem encXYN_of_masked (hp : p.toNat = c * 4096) (h : op &&& 0xF000 = p) :
    encXYN c (fieldX op) (fieldY op) (fieldN op) = op :=
  encXYN_of_fields (fieldC_of_and_F000 hp h) rfl

theorem encXY_of_masked {n : Fin 16} (hp : p.toNat = c * 4096 + n.val) (h : op &&& 0xF00F = p) :
    encXYN c (fieldX op) (fieldY op) n = op := by
  have hmask := mask_F00F op
  have hn := n.isLt
  rw [h, hp] at hmask
  apply encXYN_of_fields
  · rw [fieldC_toNat]; omega
  · rw [fieldN_val]; omega

theorem encX_of_masked {kk : Byte} (hp : p.toNat = c * 4096 + kk.toNat) (h : op &&& 0xF0FF = p) :
    encXKK c (fieldX op) kk = op := by
  have hmask := mask_F0FF op
  have hkk := kk.isLt
  rw [h, hp] at hmask
  apply encXKK_of_fields
  · rw [fieldC_toNat]; omega
  · rw [fieldKK_toNat]; omega

theorem eq_of_and_FFFF (h : op &&& 0xFFFF = p) : p = op :=
  h.symm.trans BitVec.and_allOnes

end Masked

/-- A word that passes a row's test is the word of an instruction of the row, with the fields of the word as operands. -/
theorem exists_encode_of_masked {op : Word} {row : Word × Word} (hrow : row ∈ opcodeMap) (h : op &&& row.2 = row.1) :
    ∃ i, encode i = op ∧ i.legal = true ∧ i.opcodeRow = row := by
  fin_cases hrow
  · exact ⟨.cls, eq_of_and_FFFF h, rfl, rfl⟩
  · exact ⟨.ret, eq_of_and_FFFF h, rfl, rfl⟩
  · exact ⟨.jp _, encNNN_of_masked rfl h, rfl, rfl⟩
  · exact ⟨.call _, encNNN_of_masked rfl h, rfl, rfl⟩
  · exact ⟨.seImm _ _, encXKK_of_masked rfl h, rfl, rfl⟩
  · exact ⟨.sneImm _ _, encXKK_of_masked rfl h, rfl, rfl⟩
  · exact ⟨.seReg _ _, encXY_of_masked rfl h, rfl, rfl⟩
  · exact ⟨.ldImm _ _, encXKK_of_masked rfl h, rfl, rfl⟩
  · exact ⟨.addImm _ _, encXKK_of_masked rfl h, rfl, rfl⟩
  · exact ⟨.ldReg _ _, encXY_of_masked rfl h, rfl, rfl⟩
  · exact ⟨.orReg _ _, encXY_of_masked rfl h, rfl, rfl⟩
  · exact ⟨.andReg _ _, encXY_of_masked rfl h, rfl, rfl⟩
  · exact ⟨.xorReg _ _, encXY_of_masked rfl h, rfl, rfl⟩
  · exact ⟨.addReg _ _, encXY_of_masked rfl h, rfl, rfl⟩
  · exact ⟨.subReg _ _, encXY_of_masked rfl h, rfl, rfl⟩
  · exact ⟨.shr _ _, encXY_of_masked rfl h, rfl, rfl⟩
  · exact ⟨.subnReg _ _, encXY_of_masked rfl h, rfl, rfl⟩
  · exact ⟨.shl _ _, encXY_of_masked rfl h, rfl, rfl⟩
  · exact ⟨.sneReg _ _, encXY_of_masked rfl h, rfl, rfl⟩
  · exact ⟨.ldI _, encNNN_of_masked rfl h, rfl, rfl⟩
  · exact ⟨.jpV0 _, encNNN_of_masked rfl h, rfl, rfl⟩
  · exact ⟨.rnd _ _, encXKK_of_masked rfl h, rfl, rfl⟩
  · exact ⟨.drw _ _ _, encXYN_of_masked rfl h, rfl, rfl⟩
  · exact ⟨.skp _, encX_of_masked rfl h, rfl, rfl⟩
  · exact ⟨.sknp _, encX_of_masked rfl h, rfl, rfl⟩
  · exact ⟨.ldVxDT _, encX_of_masked rfl h, rfl, rfl⟩
  · exact ⟨.ldVxK _, encX_of_masked rfl h, rfl, rfl⟩
  · exact ⟨.ldDTVx _, encX_of_masked rfl h, rfl, rfl⟩
  · exact ⟨.ldSTVx _, encX_of_masked rfl h, rfl, rfl⟩
  · exact ⟨.addI _, encX_of_masked rfl h, rfl, rfl⟩
  · exact ⟨.ldF _, encX_of_masked rfl h, rfl, rfl⟩
  · exact ⟨.ldB _, encX_of_masked rfl h, rfl, rfl⟩
  · exact ⟨.ldMemVx _, encX_of_masked rfl h, rfl, rfl⟩
  · exact ⟨.ldVxMem _, encX_of_masked rfl h, rfl, rfl⟩

/-- Settles O4: an instruction's word lies in its row, and a word that lies in a row decodes to the instruction it encodes. -/
theorem rowDecodesExactlyItsWords : Obligations.RowDecodesExactlyItsWords := by
  intro op row hrow
  constructor
  · rintro ⟨i, hd, -, rfl⟩
    rw [← encode_of_decodeWord hd]
    exact encode_and_opcodeRow i
  · intro h
    obtain ⟨i, rfl, hl, hi⟩ := exists_encode_of_masked hrow h
    exact ⟨i, decodeWord_encode (Instr.wellFormed_of_legal hl), hl, hi⟩

/-! ### The illegal words (R76) -/

section Illegal
variable {op : Word}

theorem legalWord_family0 (hc : (fieldC op).toNat = 0) :
    legalWord op = false ↔ op.toNat ≠ 0x00E0 ∧ op.toNat ≠ 0x00EE := by
  have hd : decodeWord op = .ok (decode0 op) := by simp only [decodeWord, hc]
  have hcls : op = 0x00E0#16 ↔ op.toNat = 0x00E0 := BitVec.toNat_inj.symm
  have hret : op = 0x00EE#16 ↔ op.toNat = 0x00EE := BitVec.toNat_inj.symm
  rw [Machine.legalWord_of_decodeWord hd, decode0]
  simp only [hcls, hret]
  split
  · simp [Instr.legal, *]
  · split <;> simp [Instr.legal, *]

/-- Families 5 and 9: the low nibble is part of the pattern (R78). -/
theorem legalWord_familyXY0 {i : Instr} (hd : decodeWord op = decodeXY0 op i) (hl : i.legal = true) :
    legalWord op = false ↔ op.toNat % 16 ≠ 0 := by
  rw [legalWord, hd, ← fieldN_val, decodeXY0]
  by_cases h : fieldN op = 0 <;> simp [h, hl]

theorem legalWord_family8 (hc : (fieldC op).toNat = 8) :
    legalWord op = false ↔ op.toNat % 16 ∈ [0x8, 0x9, 0xA, 0xB, 0xC, 0xD, 0xF] := by
  have hd : decodeWord op = decode8 op := by simp only [decodeWord, hc]
  rw [legalWord, hd, ← fieldN_val, decode8]
  generalize fieldN op = n
  fin_cases n <;> simp [Instr.legal]

theorem legalWord_familyE (hc : (fieldC op).toNat = 0xE) :
    legalWord op = false ↔ op.toNat % 256 ∉ [0x9E, 0xA1] := by
  have hd : decodeWord op = decodeE op := by simp only [decodeWord, hc]
  rw [← fieldKK_toNat]
  unfold decodeE at hd
  split at hd
  case h_3 => simp_all [Machine.legalWord_of_error hd]
  all_goals simp [Machine.legalWord_of_decodeWord hd, Instr.legal, *]

theorem legalWord_familyF (hc : (fieldC op).toNat = 0xF) :
    legalWord op = false ↔ op.toNat % 256 ∉ [0x07, 0x0A, 0x15, 0x18, 0x1E, 0x29, 0x33, 0x55, 0x65] := by
  have hd : decodeWord op = decodeF op := by simp only [decodeWord, hc]
  rw [← fieldKK_toNat]
  unfold decodeF at hd
  split at hd
  case h_10 => simp_all [Machine.legalWord_of_error hd]
  all_goals simp [Machine.legalWord_of_decodeWord hd, Instr.legal, *]

/-- In the other families every word is legal: the high nibble alone is the pattern. -/
theorem legalWord_of_fieldC (hc : (fieldC op).toNat ∈ [1, 2, 3, 4, 6, 7, 0xA, 0xB, 0xC, 0xD]) : legalWord op = true := by
  generalize hv : (fieldC op).toNat = c at hc
  fin_cases hc <;> simp [legalWord, decodeWord, hv, Instr.legal]

end Illegal

/-- Settles O5, by the high nibble: six families have illegal words, the other ten have none. -/
theorem illegalWordsAreTheListedOnes : Obligations.IllegalWordsAreTheListedOnes := by
  intro op
  rw [← fieldC_toNat]
  have hfamily : (fieldC op).toNat = 0 ∨ (fieldC op).toNat = 5 ∨ (fieldC op).toNat = 8 ∨ (fieldC op).toNat = 9 ∨
      (fieldC op).toNat = 0xE ∨ (fieldC op).toNat = 0xF ∨
      (fieldC op).toNat ∈ [1, 2, 3, 4, 6, 7, 0xA, 0xB, 0xC, 0xD] := by
    have := (fieldC op).isLt
    simp only [List.mem_cons, List.not_mem_nil]
    omega
  obtain hc | hc | hc | hc | hc | hc | hc := hfamily
  · simp [legalWord_family0 hc, hc]
  · have hd : decodeWord op = decodeXY0 op (.seReg (fieldX op) (fieldY op)) := by simp only [decodeWord, hc]
    simp [legalWord_familyXY0 hd rfl, hc]
  · simp [legalWord_family8 hc, hc]
  · have hd : decodeWord op = decodeXY0 op (.sneReg (fieldX op) (fieldY op)) := by simp only [decodeWord, hc]
    simp [legalWord_familyXY0 hd rfl, hc]
  · simp [legalWord_familyE hc, hc]
  · simp [legalWord_familyF hc, hc]
  · rw [legalWord_of_fieldC hc]
    generalize (fieldC op).toNat = c at hc
    fin_cases hc <;> simp

/-! ### Words written out (R74, R75) and the illegal row (R77) -/

/-- Settles O1, by running the decoder on each word. -/
theorem sampleWordsDecode : Obligations.SampleWordsDecode := by
  unfold Obligations.SampleWordsDecode
  decide

/-- The row `0nnn` has no bit above `nnn`. -/
theorem encode_illegal0nnn (nnn : Addr) : encode (.illegal0nnn nnn) = BitVec.ofNat 16 nnn.toNat := by
  rw [encode, encNNN, Nat.zero_mul, Nat.zero_add]

/-- Settles O19: the raise with the word of the instruction. -/
theorem zeroNnnIsIllegal : Obligations.ZeroNnnIsIllegal := by
  intro s nnn
  rw [← encode_illegal0nnn]
  rfl

end Sys2Proof

/-! ## The step cycle (spec/40_step_cycle.md): fetch, decode, execute (R90), the unknown word (R92), what no instruction writes (R94),
no step refused (R195) -/

namespace Sys2Proof.Machine

/-! ### The instruction step by what the word decodes to (R90, R92) -/

theorem State.instrStep_of_ok {s : State} {i : Instr} (hd : decodeWord s.fetch = .ok i) : s.instrStep = exec i s := by
  rw [State.instrStep, hd]

theorem State.instrStep_of_error {s : State} {r : Reject} (hd : decodeWord s.fetch = .error r) :
    s.instrStep = .next (s.raise .illegalOpcode s.fetch) := by
  rw [State.instrStep, hd]

/-- The end of a step leaves a step that raised where it is (R195, R213). -/
theorem State.endStep_raise (s : State) (kind : FaultKind) (op : Word) :
    (s.raise kind op).endStep = s.raise kind op :=
  if_neg nofun

/-- Settles O6: the frame actions leave the fetched word as it was. -/
theorem stepRunsTheDecodedInstruction : Obligations.StepRunsTheDecodedInstruction := by
  intro s i hr hN hb hd
  rw [← s.beginStep_fetch] at hd
  have hstep := step_running hr hN hb
  rw [State.instrStep_of_ok hd] at hstep
  exact hstep

/-- Settles O7: the raise is at the PC of the start of the step, and the end of the step adds nothing to it. -/
theorem unknownWordHalts : Obligations.UnknownWordHalts := by
  intro s r hr hN hb hd
  rw [← s.beginStep_fetch] at hd
  rw [step_running hr hN hb, State.instrStep_of_error hd, ← s.beginStep_pc, ← s.beginStep_fetch]
  exact congrArg Host.Outcome.next (State.endStep_raise _ _ _)

/-! ### What no instruction writes (R94) -/

section Writers
variable {i : Instr} {s t : State} (h : exec i s = .next t)
include h

/-- No instruction writes K (R28). -/
theorem exec_keys : t.keys = s.keys := by
  have hw := congrArg State.keys (exec_takeWrites h)
  cases i <;> exact hw

/-- RND alone takes from the inputs (R131). -/
theorem exec_env : (∃ x kk, i = .rnd x kk) ∨ t.env = s.env := by
  have hw := congrArg State.env (exec_takeWrites h)
  cases i
  case rnd x kk => exact .inl ⟨x, kk, rfl⟩
  all_goals exact .inr hw

/-- DT is written by `Fx15` alone (R26). -/
theorem exec_dt : (∃ x, i = .ldDTVx x) ∨ t.dt = s.dt := by
  have hw := congrArg State.dt (exec_takeWrites h)
  cases i
  case ldDTVx x => exact .inl ⟨x, rfl⟩
  all_goals exact .inr hw

/-- ST is written by `Fx18` alone (R27). -/
theorem exec_st : (∃ x, i = .ldSTVx x) ∨ t.st = s.st := by
  have hw := congrArg State.st (exec_takeWrites h)
  cases i
  case ldSTVx x => exact .inl ⟨x, rfl⟩
  all_goals exact .inr hw

end Writers

/-- Settles O44: one lemma for the writers of each field. -/
theorem whatNoInstructionWrites : Obligations.WhatNoInstructionWrites := fun _ _ _ h =>
  ⟨exec_keys h, exec_phase h, exec_frameOut h, exec_toneActive h, exec_cfg h, exec_env h, exec_dt h, exec_st h⟩

/-! ### No step is refused (R90, R195, R197) -/

/-- What supported parameters rule out: a frame of no steps and the two unsettled switches (R6, R7). -/
theorem steps_and_switches_of_supported {c : Config} (h : c.supported = true) :
    1 ≤ c.stepsPerFrame ∧ c.addISetsVF = false ∧ c.keyWaitOnRelease = false := by
  simp only [Config.supported, Bool.and_eq_true, decide_eq_true_eq, Bool.not_eq_true'] at h
  obtain ⟨⟨⟨hN, hadd⟩, hwait⟩, -⟩ := h
  exact ⟨hN, hadd, hwait⟩

/-- With the two unsettled switches at their defaults every instruction completes: `Fx1E` and `Fx0A` alone can be refused. -/
theorem exec_completes {s : State} (hadd : s.cfg.addISetsVF = false) (hwait : s.cfg.keyWaitOnRelease = false)
    (i : Instr) : ∃ t, exec i s = .next t := by
  cases i
  case addI x => exact ⟨_, exec_addI hadd x⟩
  case ldVxK x =>
    cases hk : s.lowestKey with
    | none => exact ⟨_, exec_ldVxK_none hwait hk x⟩
    | some k => exact ⟨_, exec_ldVxK_some hwait hk x⟩
  all_goals exact ⟨_, rfl⟩

/-- Where every instruction completes, so does fetch, decode, execute. -/
theorem State.instrStep_completes {s : State} (hadd : s.cfg.addISetsVF = false)
    (hwait : s.cfg.keyWaitOnRelease = false) : ∃ t, s.instrStep = .next t := by
  cases hd : decodeWord s.fetch with
  | ok i =>
    rw [State.instrStep_of_ok hd]
    exact exec_completes hadd hwait i
  | error r => exact ⟨_, State.instrStep_of_error hd⟩

/-- A running machine with supported parameters takes its step: it stops at line 0, or runs an instruction step. -/
theorem step_running_completes {s : State} (hr : s.run = .running) (hc : s.cfg.supported = true) :
    ∃ t, step s = .next t := by
  obtain ⟨hN, hadd, hwait⟩ := steps_and_switches_of_supported hc
  by_cases hb : s.beginStep.run = .running
  · rw [← s.beginStep_cfg] at hadd hwait
    obtain ⟨u, hu⟩ := State.instrStep_completes hadd hwait
    exact ⟨u.endStep, by rw [step_running hr hN hb, hu]⟩
  · have hN0 : s.cfg.stepsPerFrame ≠ 0 := Nat.one_le_iff_ne_zero.1 hN
    exact ⟨s.beginStep, by rw [step, State.cycle, hr]; simp only [if_neg hN0, State.runningStep, if_neg hb]⟩

/-- Settles O56: a Stopped machine stays as it is, a Running one completes its step. -/
theorem machineNeverGetsStuck : Obligations.MachineNeverGetsStuck := by
  intro s hs hf
  cases hr : s.run with
  | running => exact step_running_completes hr hs.cfg
  | stopped => exact ⟨s, step_stopped hr⟩
  | halted kind pc op => simp [State.failed, hr] at hf

end Sys2Proof.Machine

/-! ## Control flow (spec/41_control_flow.md): the jumps (R101, R107), CALL and RET (R100, R102), the register skips (R103 to R106) -/

namespace Sys2Proof.Machine

open Host (Outcome)

/-! ### The jumps (R101, R107) -/

theorem addrOperand_toNat (nnn : Addr) : (addrOperand nnn).toNat = nnn.toNat :=
  BitVec.toNat_setWidth_of_le (by decide)

/-- The sum with V[0] fits 16 bits (R107). -/
theorem State.offsetTarget_toNat (s : State) (nnn : Addr) :
    (s.offsetTarget nnn).toNat = nnn.toNat + (s.V 0).toNat := by
  have hn : nnn.toNat < 0x1000 := nnn.isLt
  have hv : (s.V 0).toNat < 0x100 := (s.V 0).isLt
  rw [State.offsetTarget, BitVec.toNat_add, addrOperand_toNat, BitVec.toNat_setWidth_of_le (by decide)]
  exact Nat.mod_eq_of_lt (by omega)

/-- Settles O14: the policy set with the target of either jump. -/
theorem jumpsSetPc : Obligations.JumpsSetPc := fun s nnn =>
  ⟨⟨s.setPC (addrOperand nnn), rfl, addrOperand_toNat nnn, rfl, s.setPC_memRead _⟩,
    ⟨s.setPC (s.offsetTarget nnn), rfl, s.offsetTarget_toNat nnn, rfl, s.setPC_memRead _⟩⟩

/-! ### CALL (R102) -/

section Call
variable {s : State} (nnn : Addr)

/-- CALL with a free slot. -/
theorem exec_call_of_lt (h : s.sp.val < 16) :
    exec (.call nnn) s = .next { s with
      stack := s.stack.set s.sp.val (s.pc + 2) h
      sp := ⟨s.sp.val + 1, Nat.succ_lt_succ h⟩
      pc := addrOperand nnn } := by
  obtain ⟨h16, -⟩ | ⟨_, ht⟩ := exec_call_cases (s := s) (nnn := nnn) rfl
  · omega
  · exact congrArg Outcome.next ht

/-- CALL with a full stack (R192). -/
theorem exec_call_of_full (h : s.sp.val = 16) :
    exec (.call nnn) s = .next (s.raise .stackOverflow (encode (.call nnn))) := by
  obtain ⟨-, ht⟩ | ⟨hlt, -⟩ := exec_call_cases (s := s) (nnn := nnn) rfl
  · exact congrArg Outcome.next ht
  · omega

end Call

/-- Settles O15: the push finds a free slot, or the raise is with the word of the instruction. -/
theorem callPushesOrOverflows : Obligations.CallPushesOrOverflows := by
  intro s nnn
  constructor
  · intro hlt
    refine ⟨_, s.pc + 2, exec_call_of_lt nnn hlt, Vector.getElem?_set_self hlt, BitVec.toNat_add _ _, ?_, rfl,
      addrOperand_toNat nnn, rfl, fun _ => rfl⟩
    intro k hk
    exact Vector.getElem?_set_ne hlt hk.symm
  · exact exec_call_of_full nnn

/-! ### RET (R100) -/

section Ret
variable {s : State}

/-- RET with an entry in use, whose value is `w`. -/
theorem exec_ret_of_pos {w : Word} (h : 0 < s.sp.val) (hw : s.stack[s.sp.val - 1]? = some w) :
    exec .ret s = .next { s with
      pc := w
      sp := ⟨s.sp.val - 1, Nat.lt_of_le_of_lt (Nat.sub_le _ _) s.sp.isLt⟩ } := by
  obtain ⟨h0, -⟩ | ⟨h', -, ht⟩ := exec_ret_cases (s := s) rfl
  · omega
  · obtain rfl : s.stack[s.sp.val - 1] = w := Option.some.inj ((Vector.getElem?_eq_getElem h').symm.trans hw)
    exact congrArg Outcome.next ht

/-- RET with an empty stack (R193). -/
theorem exec_ret_of_empty (h : s.sp.val = 0) : exec .ret s = .next (s.raise .stackUnderflow (encode .ret)) := by
  obtain ⟨-, ht⟩ | ⟨-, hpos, -⟩ := exec_ret_cases (s := s) rfl
  · exact congrArg Outcome.next ht
  · omega

end Ret

/-- Settles O16: the entry below SP is the new PC, or the raise is with the word of RET. -/
theorem retPopsOrUnderflows : Obligations.RetPopsOrUnderflows := by
  intro s
  constructor
  · intro hpos
    have hslot : s.sp.val - 1 < 16 := by omega
    have hentry := Vector.getElem?_eq_getElem (xs := s.stack) hslot
    exact ⟨_, exec_ret_of_pos hpos hentry, hentry, rfl, rfl, fun _ => rfl⟩
  · exact exec_ret_of_empty

/-- Settles O17: RET pops the slot that CALL has written, and the slots in use lie below it. -/
theorem retUndoesCall : Obligations.RetUndoesCall := by
  intro s nnn hlt
  have hsaved : (s.stack.set s.sp.val (s.pc + 2) hlt)[s.sp.val]? = some (s.pc + 2) := Vector.getElem?_set_self hlt
  refine ⟨_, _, exec_call_of_lt nnn hlt, exec_ret_of_pos (Nat.succ_pos _) hsaved, BitVec.toNat_add _ _, rfl, ?_, rfl⟩
  intro k hk
  exact Vector.getElem?_set_ne hlt (Nat.ne_of_gt hk)

/-! ### The skips (R91, R103 to R106) -/

/-- An instruction that is `skipIf` has the result of a skip on the condition its test decides. -/
theorem skipResult_of_skipIf {i : Instr} {s : State} {b : Bool} {c : Prop} [Decidable c]
    (hexec : exec i s = .next (s.skipIf b)) (hb : b = true ↔ c) : SkipResult i s c := by
  rw [State.skipIf_eq] at hexec
  refine ⟨_, hexec, ?_, rfl, s.setPC_memRead _⟩
  rw [PcPlus, State.setPC_pc, BitVec.toNat_add]
  by_cases hc : c
  · rw [if_pos hc, if_pos (hb.2 hc)]
    rfl
  · rw [if_neg hc, if_neg (mt hb.1 hc)]
    rfl

/-- The comparison of two bytes as `SE` tests it. -/
theorem beq_iff_toNat_eq (a b : Byte) : (a == b) = true ↔ a.toNat = b.toNat :=
  beq_iff_eq.trans BitVec.toNat_inj.symm

/-- The comparison of two bytes as `SNE` tests it. -/
theorem bne_iff_toNat_ne (a b : Byte) : (a != b) = true ↔ a.toNat ≠ b.toNat :=
  bne_iff_ne.trans (not_congr BitVec.toNat_inj.symm)

/-- Settles O18: each is `skipIf` on its comparison. -/
theorem registerSkips : Obligations.RegisterSkips := fun s x y kk =>
  ⟨skipResult_of_skipIf rfl (beq_iff_toNat_eq (s.V x) kk), skipResult_of_skipIf rfl (bne_iff_toNat_ne (s.V x) kk),
    skipResult_of_skipIf rfl (beq_iff_toNat_eq (s.V x) (s.V y)),
    skipResult_of_skipIf rfl (bne_iff_toNat_ne (s.V x) (s.V y))⟩

end Sys2Proof.Machine

/-! ## Loads and arithmetic (spec/42_load_alu.md): the loads and `7xkk` (R120 to R122), the logic (R123 to R125), sums, differences and
shifts with their flag (R126 to R130), RND (R131) -/

namespace Sys2Proof.Machine

/-! ### What an instruction of the family leaves, by its form -/

/-- One register write and the policy advance. -/
theorem regResult_of_setV {i : Instr} {s : State} {x : Reg} {b : Byte} {n : Nat}
    (hexec : exec i s = .next (s.setV x b).advance) (hb : b.toNat = n) : RegResult i s x n := by
  refine ⟨_, hexec, ?_, ?_, BitVec.toNat_add _ _, rfl, fun _ => rfl⟩
  · rw [State.advance_V, State.V_setV_same, hb]
  · intro r hr
    rw [State.advance_V, State.V_setV_ne s b hr]

/-- A result, then its flag (R133), and the policy advance. -/
theorem flagResult_of_setResultFlag {i : Instr} {s : State} {x : Reg} {b : Byte} {c : Bool} {n flag : Nat}
    (hexec : exec i s = .next (s.setResultFlag x b c).advance) (hb : b.toNat = n) (hc : (flagByte c).toNat = flag) :
    FlagResult i s x n flag := by
  refine ⟨_, hexec, ?_, ?_, ?_, BitVec.toNat_add _ _, rfl, fun _ => rfl⟩
  · intro hx
    rw [State.advance_V, State.V_setResultFlag, if_neg hx, if_pos rfl, hb]
  · rw [State.advance_V, State.V_setResultFlag, if_pos rfl, hc]
  · intro r hr hr15
    rw [State.advance_V, State.V_setResultFlag, if_neg hr15, if_neg hr]

/-! ### The flags as numbers (R132) -/

theorem flagByte_decide_toNat (p : Prop) [Decidable p] : (flagByte (decide p)).toNat = if p then 1 else 0 := by
  simp only [flagByte_toNat, decide_eq_true_eq]

theorem flagByte_getLsbD_toNat (a : Byte) (k : Nat) : (flagByte (a.getLsbD k)).toNat = a.toNat / 2 ^ k % 2 := by
  rw [← Nat.toNat_testBit, BitVec.testBit_toNat]
  cases a.getLsbD k <;> rfl

theorem flagByte_shiftOutRight_toNat (a : Byte) : (flagByte (shiftOutRight a)).toNat = a.toNat % 2 := by
  rw [shiftOutRight, flagByte_getLsbD_toNat, pow_zero, Nat.div_one]

theorem flagByte_shiftOutLeft_toNat (a : Byte) : (flagByte (shiftOutLeft a)).toNat = a.toNat / 128 := by
  have ha : a.toNat < 256 := a.isLt
  rw [shiftOutLeft, flagByte_getLsbD_toNat]
  omega

/-! ### Results as numbers -/

theorem toNat_sub_byte (a b : Byte) : (a - b).toNat = (a.toNat + 256 - b.toNat) % 256 := by
  have hb : b.toNat < 256 := b.isLt
  rw [BitVec.toNat_sub]
  omega

theorem toNat_shiftLeft_one (a : Byte) : (a <<< 1).toNat = a.toNat * 2 % 256 := by
  rw [BitVec.toNat_shiftLeft, Nat.shiftLeft_eq]

/-! ### A logic result under either value of its switch (U5) -/

theorem State.setLogicResult_of_keepsVF {s : State} (h : s.cfg.logicResetsVF = false) (x : Reg) (b : Byte) :
    s.setLogicResult x b = s.setV x b :=
  if_neg (Bool.eq_false_iff.1 h)

theorem State.setLogicResult_of_resetsVF {s : State} (h : s.cfg.logicResetsVF = true) (x : Reg) (b : Byte) :
    s.setLogicResult x b = s.setResultFlag x b false :=
  if_pos h

section Logic
variable {i : Instr} {s : State} {x : Reg} {b : Byte} {n : Nat}
  (hexec : exec i s = .next (s.setLogicResult x b).advance) (hb : b.toNat = n)
include hexec hb

theorem regResult_of_setLogicResult (h : s.cfg.logicResetsVF = false) : RegResult i s x n :=
  regResult_of_setV (State.setLogicResult_of_keepsVF h x b ▸ hexec) hb

theorem flagResult_of_setLogicResult (h : s.cfg.logicResetsVF = true) : FlagResult i s x n 0 :=
  flagResult_of_setResultFlag (State.setLogicResult_of_resetsVF h x b ▸ hexec) hb rfl

end Logic

/-- Settles O20: each is one register write. -/
theorem loadsAndAddImmediate : Obligations.LoadsAndAddImmediate := fun s x _ kk =>
  ⟨regResult_of_setV rfl rfl, regResult_of_setV rfl (BitVec.toNat_add (s.V x) kk), regResult_of_setV rfl rfl⟩

/-- Settles O21: the result alone, or the result and then a flag of 0. -/
theorem logicResults : Obligations.LogicResults := by
  intro s x y
  have hor := BitVec.toNat_or (s.V x) (s.V y)
  have hand := BitVec.toNat_and (s.V x) (s.V y)
  have hxor := BitVec.toNat_xor (s.V x) (s.V y)
  constructor
  · intro h
    exact ⟨regResult_of_setLogicResult rfl hor h, regResult_of_setLogicResult rfl hand h,
      regResult_of_setLogicResult rfl hxor h⟩
  · intro h
    exact ⟨flagResult_of_setLogicResult rfl hor h, flagResult_of_setLogicResult rfl hand h,
      flagResult_of_setLogicResult rfl hxor h⟩

/-- Settles O22: the flag of the sum is whether it exceeds 255. -/
theorem addWithCarryOut : Obligations.AddWithCarryOut := fun s x y =>
  flagResult_of_setResultFlag rfl (BitVec.toNat_add (s.V x) (s.V y)) (flagByte_decide_toNat _)

/-- Settles O23: the flag of either difference is whether its right operand is at most its left one. -/
theorem subtractionsWithNotBorrow : Obligations.SubtractionsWithNotBorrow := fun s x y =>
  ⟨flagResult_of_setResultFlag rfl (toNat_sub_byte (s.V x) (s.V y)) (flagByte_decide_toNat _),
    flagResult_of_setResultFlag rfl (toNat_sub_byte (s.V y) (s.V x)) (flagByte_decide_toNat _)⟩

/-- Settles O24: a shift by one halves or doubles its source, and the flag is bit 0 or bit 7 of it. -/
theorem shiftsByOne : Obligations.ShiftsByOne := by
  intro s x y src hsrc
  obtain rfl : src = s.shiftSource x y := hsrc
  exact ⟨flagResult_of_setResultFlag rfl (BitVec.toNat_ushiftRight _ 1) (flagByte_shiftOutRight_toNat _),
    flagResult_of_setResultFlag rfl (toNat_shiftLeft_one _) (flagByte_shiftOutLeft_toNat _)⟩

/-- Settles O25: one draw, one register write; the mask leaves no bit outside it. -/
theorem rndMasksOneRandomByte : Obligations.RndMasksOneRandomByte := by
  intro s x kk
  have hmask : s.env.random &&& kk &&& ~~~kk = 0 := by
    rw [BitVec.and_assoc, BitVec.and_not_self]
    exact BitVec.and_zero
  refine ⟨(s.draw.setV x (s.env.random &&& kk)).advance, rfl, ?_, ?_, ?_, rfl, BitVec.toNat_add _ _, rfl, fun _ => rfl⟩
  · rw [State.advance_V, State.V_setV_same, BitVec.toNat_and]
  · rw [State.advance_V, State.V_setV_same, hmask]
  · intro r hr
    rw [State.advance_V, State.V_setV_ne _ _ hr, State.draw_V]

end Sys2Proof.Machine

/-! ## Index and memory (spec/43_index_memory.md): the loads of I (R140 to R142), the decimal digits (R143), the block transfers (R144,
R145) and what they do together (R57) -/

namespace Sys2Proof.Machine

open Host (Outcome)

/-! ### The loads of I (R140 to R142) -/

/-- From `s` the instruction completes, leaves `n` in I, advances PC by 2, and changes nothing else; every byte of memory reads
as before. -/
def IndexResult (i : Instr) (s : State) (n : Nat) : Prop :=
  ∃ t, exec i s = .next t ∧ t.i.toNat = n ∧ PcPlus s t 2 ∧ t = { s with i := t.i, pc := t.pc } ∧
    ∀ a, t.memRead a = s.memRead a

/-- One write of I and the policy advance. -/
theorem indexResult_of_setI {i : Instr} {s : State} {w : Word} {n : Nat} (hexec : exec i s = .next (s.setI w).advance)
    (hw : w.toNat = n) : IndexResult i s n :=
  ⟨_, hexec, hw, BitVec.toNat_add _ _, rfl, fun _ => rfl⟩

theorem toNat_add_setWidth_byte (w : Word) (b : Byte) : (w + b.setWidth 16).toNat = (w.toNat + b.toNat) % 65536 := by
  rw [BitVec.toNat_add, BitVec.toNat_setWidth_of_le (by decide)]

/-- The last glyph is at 75, so the product fits (R142). -/
theorem glyphAddr_toNat (b : Byte) : (glyphAddr b).toNat = b.toNat % 16 * 5 := by
  have hmask : (b &&& 0xF).toNat = b.toNat % 16 := Nat.and_two_pow_sub_one_eq_mod b.toNat 4
  have hfive : (5 : Word).toNat = 5 := rfl
  rw [glyphAddr, BitVec.toNat_mul, BitVec.toNat_setWidth_of_le (by decide), hmask, hfive]
  exact Nat.mod_eq_of_lt (by omega)

/-- `Fx1E` under the value of its switch that the document does not settle (U3). -/
theorem exec_addI_refused {s : State} (hc : s.cfg.addISetsVF = true) (x : Reg) :
    exec (.addI x) s = .refused .quirkAddISetsVF :=
  if_pos hc

/-- Settles O26: each is one write of I, and `Fx1E` is refused under its switch. -/
theorem indexLoads : Obligations.IndexLoads := fun s x nnn =>
  ⟨indexResult_of_setI rfl (addrOperand_toNat nnn),
    fun hc => indexResult_of_setI (exec_addI hc x) (toNat_add_setWidth_byte s.i (s.V x)),
    fun hc => exec_addI_refused hc x,
    indexResult_of_setI rfl (glyphAddr_toNat (s.V x))⟩

/-! ### The decimal digits (R143) -/

/-- `Fx33` as one update of memory and PC. -/
theorem exec_ldB (s : State) (x : Reg) :
    exec (.ldB x) s = .next { s with mem := (s.memWriteAll (s.ea 0) (bcdDigits (s.V x))).mem, pc := s.pc + 2 } := by
  change Outcome.next (s.memWriteAll _ _).advance = _
  rw [State.memWriteAll_eq]
  rfl

theorem toNat_byte_of_lt {n : Nat} (h : n < 256) : (BitVec.ofNat 8 n).toNat = n :=
  (BitVec.toNat_ofNat n 8).trans (Nat.mod_eq_of_lt h)

/-- Settles O27: the three bytes written from I upward read back, and each digit fits its byte. -/
theorem bcdStoresThreeDigits : Obligations.BcdStoresThreeDigits := by
  intro s x hwf
  have hb : (s.V x).toNat < 256 := (s.V x).isLt
  have hread := State.memRead_memWriteAll hwf (s.ea 0) (bcdDigits (s.V x)) (show 3 ≤ memSize by decide)
  refine ⟨_, exec_ldB s x, ?_, ?_, ?_, fun a ha => State.memRead_memWriteAll_of_ne hwf (s.ea 0) a _ ha,
    BitVec.toNat_add _ _, rfl⟩
  · exact (congrArg BitVec.toNat (hread 0 (show 0 < 3 by decide))).trans (toNat_byte_of_lt (by omega))
  · exact (congrArg BitVec.toNat (hread 1 (show 1 < 3 by decide))).trans (toNat_byte_of_lt (by omega))
  · exact (congrArg BitVec.toNat (hread 2 (show 2 < 3 by decide))).trans (toNat_byte_of_lt (by omega))

/-! ### The block transfers (R144, R145) -/

/-- I after a block transfer: as it was, or past the block, modulo 65536 (U2). -/
theorem State.afterBlock_i_toNat (s : State) (x : Reg) :
    (s.afterBlock x).i.toNat =
      if s.cfg.loadStoreIncI = true then (s.i.toNat + x.val + 1) % 65536 else s.i.toNat := by
  have hx : x.val + 1 < 65536 := by omega
  rw [State.afterBlock_eq, State.setI_i, apply_ite BitVec.toNat, BitVec.toNat_add, BitVec.toNat_ofNat,
    Nat.mod_eq_of_lt hx, Nat.add_assoc]

/-- `s` with V0 to Vx stored at I upward (R144). -/
def State.storedBlock (s : State) (x : Reg) : State := s.memWriteAll (s.ea 0) ((regsUpTo x).map s.V)

/-- `Fx55` as one update of memory, I and PC. -/
theorem exec_ldMemVx (s : State) (x : Reg) :
    exec (.ldMemVx x) s = .next { s with mem := (s.storedBlock x).mem, i := (s.afterBlock x).i, pc := s.pc + 2 } := by
  change Outcome.next ((s.memWriteAll _ _).afterBlock x).advance = _
  rw [State.memWriteAll_eq, State.afterBlock_eq, State.afterBlock_eq]
  rfl

/-- `Fx65` as one update of the register file, I and PC. -/
theorem exec_ldVxMem (s : State) (x : Reg) :
    exec (.ldVxMem x) s = .next { s with v := (s.loadRegs (regsUpTo x)).v, i := (s.afterBlock x).i, pc := s.pc + 2 } := by
  change Outcome.next ((s.loadRegs _).afterBlock x).advance = _
  rw [State.loadRegs_eq, State.afterBlock_eq, State.afterBlock_eq]
  rfl

/-- A block is x + 1 bytes long (R144). -/
theorem blockBytes_length (s : State) (x : Reg) : ((regsUpTo x).map s.V).length = x.val + 1 := by
  rw [List.length_map, regsUpTo_length]

section Stored
variable {s : State} (hwf : s.mem.wf = true) (x : Reg)
include hwf

/-- Every register of the block is at its place: the block is at most 16 bytes long, so none is written twice. -/
theorem State.memRead_storedBlock {r : Reg} (hr : r ≤ x) : (s.storedBlock x).memRead (s.ea r.val) = s.V r := by
  have hlen := blockBytes_length s x
  have hrx : r.val ≤ x.val := hr
  have hlt : r.val < ((regsUpTo x).map s.V).length := by omega
  have hread := State.memRead_memWriteAll hwf (s.ea 0) _ (show _ ≤ 4096 by omega) r.val hlt
  rw [List.getElem_map, Fin.ext (regsUpTo_get x r.val _)] at hread
  exact hread

theorem State.memRead_storedBlock_of_ne {a : Nat} (ha : ∀ k, k ≤ x.val → a % 4096 ≠ s.ea k % 4096) :
    (s.storedBlock x).memRead a = s.memRead a := by
  refine State.memRead_memWriteAll_of_ne hwf (s.ea 0) a _ fun k hk => ha k ?_
  rw [blockBytes_length] at hk
  omega

end Stored

/-- Settles O28: the registers of the block at their places, every other byte as it was. -/
theorem storeBlock : Obligations.StoreBlock := fun s x hwf =>
  ⟨_, exec_ldMemVx s x, fun _ hr => State.memRead_storedBlock hwf x hr,
    fun _ ha => State.memRead_storedBlock_of_ne hwf x ha, s.afterBlock_i_toNat x, BitVec.toNat_add _ _, rfl⟩

/-- Settles O29: a register is loaded exactly when it is in the block (`mem_regsUpTo`). -/
theorem loadBlock : Obligations.LoadBlock := by
  intro s x
  have hload := s.V_loadRegs (regsUpTo x)
  refine ⟨_, exec_ldVxMem s x, fun r hr => ?_, fun r hr => ?_, s.afterBlock_i_toNat x, BitVec.toNat_add _ _, rfl,
    fun _ => rfl⟩
  · exact (hload r).trans (if_pos (mem_regsUpTo.2 hr))
  · exact (hload r).trans (if_neg (mt mem_regsUpTo.1 (not_le_of_gt hr)))

/-- Settles O30: I is where it was, so each register of the block is loaded from the byte it was stored in. -/
theorem loadUndoesStore : Obligations.LoadUndoesStore := by
  intro s x hwf hinc
  obtain ⟨t, ht, hstored, -, hi, -, hstore⟩ := storeBlock s x hwf
  obtain ⟨u, hu, hloaded, habove, -, -, hload, -⟩ := loadBlock t x
  rw [if_neg (Bool.eq_false_iff.1 hinc)] at hi
  refine ⟨t, u, ht, hu, State.v_ext fun r => ?_, (congrArg State.mem hload).trans rfl⟩
  rcases le_or_gt r x with hr | hr
  · rw [hloaded r hr, hi]
    exact hstored r hr
  · exact (habove r hr).trans ((congrArg (State.V · r) hstore).trans rfl)

end Sys2Proof.Machine

/-! ## The display (spec/44_display.md): CLS (R160), the cells and the collision of DRW (R161), and what follows of them (R162) -/

namespace Sys2Proof.Machine

open Host (Outcome)

/-- Settles O32: the blank display and the policy advance. -/
theorem clsClearsEveryCell : Obligations.ClsClearsEveryCell := fun _ =>
  ⟨_, rfl, fun cx cy => Display.get_blank cx cy, BitVec.toNat_add _ _, rfl, fun _ => rfl⟩

/-! ### The pixels of a sprite (R161) -/

/-- What the rows drawn one after another put on a cell is the sprite's pixel there. -/
theorem State.rowsBit_eq_spriteBit (s : State) (sx sy n cx cy : Nat) :
    s.rowsBit sx sy n cx cy = s.spriteBit sx sy n cx cy := by
  have hbox : (sy ≤ cy ∧ cy < sy + n) ∧ (cy = cy ∧ sx ≤ cx ∧ cx < sx + 8) ↔
      sx ≤ cx ∧ cx < sx + 8 ∧ sy ≤ cy ∧ cy < sy + n := by omega
  rw [State.rowsBit, rowBit, State.spriteBit, ← Bool.and_assoc, ← Bool.decide_and, decide_eq_decide.2 hbox]

/-- A sprite reaches no cell outside its 8 columns and `n` rows. -/
theorem State.bounds_of_spriteBit {s : State} {sx sy n cx cy : Nat} (h : s.spriteBit sx sy n cx cy = true) :
    (sx ≤ cx ∧ cx < sx + 8) ∧ sy ≤ cy ∧ cy < sy + n := by
  obtain ⟨hbox, -⟩ := Bool.and_eq_true_iff.1 h
  exact and_assoc.2 (of_decide_eq_true hbox)

theorem flagByte_eq_one_iff (c : Bool) : flagByte c = 1 ↔ c = true := by cases c <;> decide

/-! ### DRW (R161) -/

/-- Settles O33: the cells and the collision of the rows drawn one after another, then one write of VF and the policy
advance. -/
theorem drwXorsTheClippedSprite : Obligations.DrwXorsTheClippedSprite := by
  rintro s x y n sx sy rfl rfl
  refine ⟨_, rfl, fun cx hx cy hy => ?_, ?_, ?_, fun r hr => ?_, BitVec.toNat_add _ _, rfl, fun _ => rfl⟩
  · rw [← State.rowsBit_eq_spriteBit]
    exact s.drawSprite_get _ _ _ hx hy
  · rw [State.advance_V, State.V_setV_same]
    exact (flagByte_zero_or_one _).symm
  · simp only [State.advance_V, State.V_setV_same, flagByte_eq_one_iff, ← State.rowsBit_eq_spriteBit]
    exact s.drawSprite_hit _ _ _
  · exact State.V_setV_ne _ _ hr

/-- The pixel that `Dxyn` puts on a cell: its sprite drawn from the wrapped start (R161). -/
def State.drwBit (s : State) (x y : Reg) (n : Fin 16) (cx cy : Nat) : Bool :=
  s.spriteBit ((s.V x).toNat % 64) ((s.V y).toNat % 32) n.val cx cy

section Drw
variable {s t : State} {x y : Reg} {n : Fin 16} (h : exec (.drw x y n) s = .next t)
include h

theorem exec_drw_get {cx cy : Nat} (hx : cx < 64) (hy : cy < 32) :
    t.fb.get cx cy = (s.fb.get cx cy ^^ s.drwBit x y n cx cy) := by
  obtain ⟨u, hu, hcells, -⟩ := drwXorsTheClippedSprite s x y n _ _ rfl rfl
  obtain rfl := Outcome.next.inj (h.symm.trans hu)
  exact hcells cx hx cy hy

/-- A cell that changes is under a pixel. -/
theorem exec_drw_drwBit_of_get_ne {cx cy : Nat} (hx : cx < 64) (hy : cy < 32) (hne : t.fb.get cx cy ≠ s.fb.get cx cy) :
    s.drwBit x y n cx cy = true := by
  refine Bool.eq_true_of_not_eq_false fun h0 => hne ?_
  rw [exec_drw_get h hx hy, h0, Bool.xor_false]

theorem exec_drw_collision :
    t.V 15 = 1 ↔ ∃ cx, cx < 64 ∧ ∃ cy, cy < 32 ∧ s.fb.get cx cy = true ∧ s.drwBit x y n cx cy = true := by
  obtain ⟨u, hu, -, -, hflag, -⟩ := drwXorsTheClippedSprite s x y n _ _ rfl rfl
  obtain rfl := Outcome.next.inj (h.symm.trans hu)
  exact hflag

/-- I and memory stay, so the sprite of a second draw differs only where the VF write moved its start. -/
theorem exec_drw_drwBit (hVx : t.V x = s.V x) (hVy : t.V y = s.V y) (cx cy : Nat) :
    t.drwBit x y n cx cy = s.drwBit x y n cx cy := by
  have hframe : t.spriteBit = s.spriteBit := by rw [exec_takeWrites h]; rfl
  rw [State.drwBit, hVx, hVy, hframe, State.drwBit]

end Drw

/-! ### What follows of the cells (R162) -/

/-- Settles O34: of the lit cells, exactly those under a pixel go out. -/
theorem collisionMeansACellWentOut : Obligations.CollisionMeansACellWentOut := by
  intro s x y n
  refine ⟨_, rfl, (exec_drw_collision rfl).trans ?_⟩
  constructor
  · rintro ⟨cx, hx, cy, hy, hlit, hbit⟩
    exact ⟨cx, hx, cy, hy, hlit, by rw [exec_drw_get rfl hx hy, hlit, hbit, Bool.xor_self]⟩
  · rintro ⟨cx, hx, cy, hy, hlit, hout⟩
    exact ⟨cx, hx, cy, hy, hlit, exec_drw_drwBit_of_get_ne rfl hx hy (by rw [hlit, hout]; exact Bool.false_ne_true)⟩

/-- Settles O35: each cell is XORed with the same pixel twice. -/
theorem drawingTwiceRestoresTheDisplay : Obligations.DrawingTwiceRestoresTheDisplay := by
  intro s x y n
  refine ⟨_, rfl, fun hVx hVy => ⟨_, rfl, Display.ext fun cx hx cy hy => ?_⟩⟩
  rw [exec_drw_get rfl hx hy, exec_drw_drwBit rfl hVx hVy, exec_drw_get rfl hx hy, Bool.xor_assoc, Bool.xor_self,
    Bool.xor_false]

/-- Settles O36: the cells that change are under pixels, so they are among the sprite's 8 columns and `n` rows. -/
theorem drwChangesAtMostEightCellsARow : Obligations.DrwChangesAtMostEightCellsARow := by
  intro s t x y n h
  have hsub : (Finset.range 64 ×ˢ Finset.range 32).filter (fun c => t.fb.get c.1 c.2 ≠ s.fb.get c.1 c.2) ⊆
      Finset.Ico ((s.V x).toNat % 64) ((s.V x).toNat % 64 + 8) ×ˢ
        Finset.Ico ((s.V y).toNat % 32) ((s.V y).toNat % 32 + n.val) := by
    simp only [Finset.subset_iff, Finset.mem_filter, Finset.mem_product, Finset.mem_range, Finset.mem_Ico]
    rintro c ⟨⟨hx, hy⟩, hne⟩
    exact State.bounds_of_spriteBit (exec_drw_drwBit_of_get_ne h hx hy hne)
  calc _ ≤ _ := Finset.card_le_card hsub
    _ = 8 * n.val := by simp only [Finset.card_product, Nat.card_Ico, Nat.add_sub_cancel_left]

end Sys2Proof.Machine

/-! ## Timers and keypad (spec/45_timer_keypad.md): the timer moves (R170 to R172), the key skips (R173, R174), the wait for a key
(R175) -/

namespace Sys2Proof.Machine

/-! ### The timers (R170 to R172) -/

/-- Settles O37: one register write, or one timer write, and the policy advance. -/
theorem timerInstructions : Obligations.TimerInstructions := fun _ _ =>
  ⟨regResult_of_setV rfl rfl, ⟨_, rfl, rfl, BitVec.toNat_add _ _, rfl, fun _ => rfl⟩,
    ⟨_, rfl, rfl, BitVec.toNat_add _ _, rfl, fun _ => rfl⟩⟩

/-! ### The key skips (R28, R173, R174) -/

/-- Key `k` as bit `k` of the number K (R28). -/
theorem State.keyDown_toNat (s : State) (k : Nat) : (s.keyDown k).toNat = s.keys.toNat / 2 ^ k % 2 := by
  rw [State.keyDown, ← BitVec.testBit_toNat, Nat.toNat_testBit]

theorem State.keyDown_iff (s : State) (k : Nat) : s.keyDown k = true ↔ s.keys.toNat / 2 ^ k % 2 = 1 := by
  rw [← State.keyDown_toNat, Bool.toNat_eq_one]

theorem State.not_keyDown_iff (s : State) (k : Nat) : (!s.keyDown k) = true ↔ s.keys.toNat / 2 ^ k % 2 = 0 := by
  rw [← State.keyDown_toNat, Bool.toNat_eq_zero, Bool.not_eq_true']

/-- Settles O38: each is `skipIf` on the key that the low nibble selects. -/
theorem keypadSkips : Obligations.KeypadSkips := fun s x =>
  ⟨skipResult_of_skipIf rfl (s.keyDown_iff (keyIndex (s.V x))),
    skipResult_of_skipIf rfl (s.not_keyDown_iff (keyIndex (s.V x)))⟩

/-! ### The wait for a key (R175) -/

/-- `Fx0A` under the value of its switch that the document does not settle (U4). -/
theorem exec_ldVxK_refused {s : State} (hc : s.cfg.keyWaitOnRelease = true) (x : Reg) :
    exec (.ldVxK x) s = .refused .quirkKeyWaitOnRelease :=
  if_pos hc

/-- With a key pressed one is found: the lowest. -/
theorem State.exists_lowestKey {s : State} (h : s.keys ≠ 0) : ∃ k, s.lowestKey = some k :=
  Option.ne_none_iff_exists'.1 (mt State.lowestKey_none.1 h)

/-- Settles O39: the search of the keys from 0 upward finds none, or the lowest pressed one. -/
theorem keyWait : Obligations.KeyWait := by
  intro s x
  refine ⟨fun hc => ⟨fun hnone => ?_, fun hpressed => ?_⟩, fun hc => exec_ldVxK_refused hc x⟩
  · exact exec_ldVxK_none hc (State.lowestKey_none.2 hnone) x
  · obtain ⟨k, hk⟩ := State.exists_lowestKey hpressed
    obtain ⟨hdown, hbelow⟩ := State.lowestKey_some hk
    have hbyte : (BitVec.ofNat 8 k.val).toNat = k.val := toNat_byte_of_lt (by omega)
    exact ⟨k.val, k.isLt, hdown, fun j hj => hbelow ⟨j, hj.trans k.isLt⟩ hj,
      regResult_of_setV (exec_ldVxK_some hc hk x) hbyte⟩

end Sys2Proof.Machine

/-! ## Exceptions (spec/60_exceptions.md): the timers at a frame end (R205), the stops of a running machine (R191 to R195, R215), the
frame (R210 to R212), the output ports (R216, R219), idleness (R225) -/

namespace Sys2Proof.Machine

open Host (Outcome)

/-! ### The timers at a frame end (R205, R206) -/

theorem tick_toNat (b : Byte) : (tick b).toNat = b.toNat - 1 := by
  unfold tick
  split
  · next h => rw [h]; rfl
  · next h => bv_omega

/-- Settles O40: the gate looks at ST after the decrement. -/
theorem frameEnd : Obligations.FrameEnd := by
  intro s
  refine ⟨tick_toNat s.dt, tick_toNat s.st, rfl, ?_, rfl⟩
  have hgate : (0 < (tick s.st).toNat) ↔ (1 < s.st.toNat) := by rw [tick_toNat]; omega
  exact congrArg some (decide_eq_decide.2 hgate)

/-- Settles O41, by induction on the number of frame ends. -/
theorem timersAfterFrameEnds : Obligations.TimersAfterFrameEnds := by
  intro k s
  induction k with
  | zero => exact ⟨rfl, rfl⟩
  | succ k ih =>
    obtain ⟨hdt, hst⟩ := ih
    rw [Function.iterate_succ_apply', State.endFrame_dt, State.endFrame_st, tick_toNat, tick_toNat, hdt, hst]
    exact ⟨Nat.sub_sub _ _ _, Nat.sub_sub _ _ _⟩

/-! ### The stops of a running machine (R191 to R195, R215) -/

/-- What the next step finds when it raises a fatal error of the kind (R191 to R193). -/
def State.faultCause (s : State) : FaultKind → Prop
  | .illegalOpcode => legalWord s.fetch = false
  | .stackOverflow => ∃ nnn, decodeWord s.fetch = .ok (.call nnn) ∧ s.sp = 16
  | .stackUnderflow => decodeWord s.fetch = .ok .ret ∧ s.sp = 0

/-- A decoded instruction leaves RUN alone, or raises with the fetched word for the cause of its kind. -/
theorem exec_run_or_raise {s u : State} {i : Instr} (hd : decodeWord s.fetch = .ok i) (h : exec i s = .next u) :
    u.run = s.run ∨ ∃ kind, s.faultCause kind ∧ u = s.raise kind s.fetch := by
  rw [← encode_of_decodeWord hd]
  obtain hrun | ⟨rfl, h0, hu⟩ | ⟨nnn, rfl, h16, hu⟩ | ⟨nnn, rfl, hu⟩ := exec_run_cases h
  · exact .inl hrun
  · exact .inr ⟨.stackUnderflow, ⟨hd, Fin.ext h0⟩, hu⟩
  · exact .inr ⟨.stackOverflow, ⟨nnn, hd, Fin.ext h16⟩, hu⟩
  · exact .inr ⟨.illegalOpcode, legalWord_of_decodeWord hd, hu⟩

/-- The causes of a fault are not touched by the start of the step. -/
theorem State.faultCause_beginStep {s : State} {kind : FaultKind} (h : s.beginStep.faultCause kind) :
    s.faultCause kind := by
  cases kind <;> simpa [State.faultCause] using h

/-- Line 0 stops a running machine at a frame boundary with the signal raised, and there alone (R215). -/
theorem State.beginStep_stops {s : State} (hr : s.run = .running) (hb : s.beginStep.run ≠ .running) :
    s.phase = 0 ∧ s.env.shutdownIn = some 0 ∧ s.beginStep = { s with run := .stopped } := by
  obtain ⟨-, h⟩ | hstop | ⟨-, -, h⟩ := s.beginStep_cases
  · exact absurd hr (h ▸ hb)
  · exact hstop
  · rw [h] at hb
    exact absurd hr hb

/-- A step of a running machine is stopped at a frame boundary, or raises, or runs its instruction and stays Running. -/
theorem step_running_cases {s t : State} (hr : s.run = .running) (h : step s = .next t) :
    (s.phase = 0 ∧ s.env.shutdownIn = some 0 ∧ t = { s with run := .stopped }) ∨
    (s.beginStep.run = .running ∧ ∃ kind, s.faultCause kind ∧ t = s.beginStep.raise kind s.fetch) ∨
    (s.beginStep.run = .running ∧ t.run = .running ∧ ∃ i u, decodeWord s.fetch = .ok i ∧
      exec i s.beginStep = .next u ∧ u.run = .running ∧ t = u.endStep) := by
  obtain ⟨hs, -⟩ | ⟨-, hb, ht⟩ | ⟨-, hb, r, hd, ht⟩ | ⟨-, hb, i, u, hd, he, rfl⟩ := step_next_cases h
  · rw [hr] at hs
    cases hs
  · obtain ⟨h0, hsig, hstop⟩ := State.beginStep_stops hr hb
    exact .inl ⟨h0, hsig, ht.trans hstop⟩
  · exact .inr (.inl ⟨hb, .illegalOpcode, legalWord_of_error hd, ht⟩)
  · have hdb : decodeWord s.beginStep.fetch = .ok i := by rwa [State.beginStep_fetch]
    obtain hu | ⟨kind, hcause, rfl⟩ := exec_run_or_raise hdb he
    · have hrun : u.run = .running := hu.trans hb
      exact .inr (.inr ⟨hb, u.endStep_run.trans hrun, i, u, hd, he, hrun, rfl⟩)
    · refine .inr (.inl ⟨hb, kind, State.faultCause_beginStep hcause, ?_⟩)
      rw [State.endStep_raise, State.beginStep_fetch]

/-- A raise after the start of a step records the PC that the step began with (R195). -/
theorem State.beginStep_raise (s : State) (kind : FaultKind) (op : Word) :
    s.beginStep.raise kind op = { s.beginStep with run := .halted kind s.pc op } :=
  congrArg (fun pc => { s.beginStep with run := .halted kind pc op }) s.beginStep_pc

/-- Settles O9: a raise writes RUN alone, and the end of the step adds nothing to it. -/
theorem faultIsPrecise : Obligations.FaultIsPrecise := by
  intro s t kind pc op hr h ht
  obtain ⟨-, -, rfl⟩ | ⟨-, kind', -, rfl⟩ | ⟨-, hrun, -⟩ := step_running_cases hr h
  · cases ht
  · rw [State.beginStep_raise] at ht ⊢
    cases ht
    exact ⟨rfl, rfl, rfl⟩
  · rw [hrun] at ht
    cases ht

/-- Settles O10: the cases of a step that do not stay Running, and the instructions that write RUN. -/
theorem onlyThreeErrorsAndShutdownStopTheMachine : Obligations.OnlyThreeErrorsAndShutdownStopTheMachine := by
  constructor
  · intro s t hr h ht
    obtain ⟨h0, hsig, rfl⟩ | ⟨-, kind, hcause, rfl⟩ | ⟨-, hrun, -⟩ := step_running_cases hr h
    · exact .inl ⟨h0, hsig, rfl⟩
    · rw [State.raise_run, s.beginStep_pc]
      cases kind with
      | illegalOpcode => exact .inr (.inl ⟨hcause, rfl⟩)
      | stackOverflow =>
        obtain ⟨nnn, hd, h16⟩ := hcause
        exact .inr (.inr (.inl ⟨nnn, hd, h16, rfl⟩))
      | stackUnderflow =>
        obtain ⟨hd, h0⟩ := hcause
        exact .inr (.inr (.inr ⟨hd, h0, rfl⟩))
    · exact absurd hrun ht
  · intro i s t h hr ht
    obtain hrun | ⟨hi, h0, rfl⟩ | ⟨nnn, hi, h16, rfl⟩ | ⟨nnn, hi, rfl⟩ := exec_run_cases h
    · exact absurd (hrun.trans hr) ht
    · exact .inr (.inl ⟨hi, Fin.ext h0, rfl⟩)
    · exact .inl ⟨nnn, hi, Fin.ext h16, rfl⟩
    · exact .inr (.inr ⟨nnn, hi, rfl⟩)

/-- Where line 0 stops the machine no instruction runs (R215). -/
theorem step_of_beginStep_stops {s : State} (hr : s.run = .running) (hN : 1 ≤ s.cfg.stepsPerFrame)
    (hb : s.beginStep.run ≠ .running) : step s = .next s.beginStep := by
  rw [step, State.cycle, hr]
  simp only [if_neg (Nat.one_le_iff_ne_zero.1 hN), State.runningStep, if_neg hb]

/-- A Stopped machine stays as it is along every run (R215). -/
theorem run_stopped {s : State} (h : s.run = .stopped) (k : Nat) : Host.Core.run core k s = .next s := by
  induction k with
  | zero => rfl
  | succ k ih => rw [run_succ, step_stopped h]; exact ih

/-- Settles O12: the signal is looked at by line 0 alone. -/
theorem shutdownStopsOnlyBetweenFrames : Obligations.ShutdownStopsOnlyBetweenFrames := by
  constructor
  · intro s hr hN h0 hsig
    have hb : s.beginStep = { s with run := .stopped } := by rw [State.beginStep, if_pos h0, State.beginFrame, hsig]
    refine ⟨?_, run_stopped rfl⟩
    rw [step_of_beginStep_stops hr hN (by simp [hb]), hb]
  · intro s t hr h ht
    obtain ⟨h0, hsig, -⟩ | ⟨-, kind, -, rfl⟩ | ⟨-, hrun, -⟩ := step_running_cases hr h
    · exact ⟨h0, hsig⟩
    · cases ht
    · rw [hrun] at ht
      cases ht

/-! ### The keypad word of a frame (R211) -/

/-- No instruction takes a keypad word: RND takes from the random bytes alone (R131, R211). -/
theorem exec_keyWords {i : Instr} {s t : State} (h : exec i s = .next t) :
    t.env.polls = s.env.polls ∧ t.env.keyWords = s.env.keyWords := by
  obtain ⟨x, kk, rfl⟩ | he := exec_env h
  · obtain rfl := Outcome.next.inj h
    exact ⟨rfl, rfl⟩
  · exact ⟨congrArg Env.polls he, congrArg Env.keyWords he⟩

/-- A step that does not stop the machine leaves K and the keypad words as the start of the step left them. -/
theorem step_keys {s t : State} (hr : s.run = .running) (ht : t.run ≠ .stopped) (h : step s = .next t) :
    s.beginStep.run = .running ∧ t.keys = s.beginStep.keys ∧ t.env.polls = s.beginStep.env.polls ∧
      t.env.keyWords = s.beginStep.env.keyWords := by
  obtain ⟨-, -, rfl⟩ | ⟨hb, kind, -, rfl⟩ | ⟨hb, -, i, u, -, he, -, rfl⟩ := step_running_cases hr h
  · exact absurd rfl ht
  · exact ⟨hb, rfl, rfl, rfl⟩
  · rw [State.endStep_keys, State.endStep_env]
    exact ⟨hb, exec_keys he, exec_keyWords he⟩

/-- Settles O13: the start of the step polls at a frame boundary, and does nothing inside a frame. -/
theorem keypadIsPolledOncePerFrame : Obligations.KeypadIsPolledOncePerFrame := by
  intro s t hr ht h
  obtain ⟨hb, hkeys, hpolls, hwords⟩ := step_keys hr ht h
  rw [hkeys, hpolls, hwords]
  obtain ⟨hne, hs⟩ | ⟨-, -, hs⟩ | ⟨h0, -, hs⟩ := s.beginStep_cases
  · rw [hs]
    exact ⟨fun h0 => absurd h0 hne, fun _ => ⟨rfl, rfl, rfl⟩⟩
  · rw [hs] at hb
    cases hb
  · rw [hs]
    exact ⟨fun _ => ⟨rfl, rfl, rfl⟩, fun hne => absurd h0 hne⟩

/-! ### The frame (R210, R212) -/

/-- A step that ends Running ran a decoded instruction on a running machine. -/
theorem step_ends_running {s t : State} (h : step s = .next t) (ht : t.run = .running) :
    s.run = .running ∧ ∃ i u, decodeWord s.fetch = .ok i ∧ exec i s.beginStep = .next u ∧ u.run = .running ∧
      t = u.endStep := by
  obtain ⟨hs, rfl⟩ | ⟨hr, -⟩ := step_cases h
  · rw [hs] at ht
    cases ht
  · obtain ⟨-, -, rfl⟩ | ⟨-, kind, -, rfl⟩ | ⟨-, -, hexec⟩ := step_running_cases hr h
    · cases ht
    · cases ht
    · exact ⟨hr, hexec⟩

/-- The end of a step that did not raise, by the place of the step in the frame. -/
theorem State.endStep_of_inside {u : State} (hr : u.run = .running) (h : u.phase + 1 < u.cfg.stepsPerFrame) :
    u.endStep = { u with phase := u.phase + 1 } := by
  rw [State.endStep, if_pos hr, if_pos h]

theorem State.endStep_of_last {u : State} (hr : u.run = .running) (h : u.cfg.stepsPerFrame ≤ u.phase + 1) :
    u.endStep = u.endFrame := by
  rw [State.endStep, if_pos hr, if_neg (Nat.not_lt.2 h)]

/-- No step writes the parameters. -/
theorem step_cfg {s t : State} (h : step s = .next t) : t.cfg = s.cfg := by
  obtain ⟨-, rfl⟩ | ⟨-, -, rfl⟩ | ⟨-, -, r, -, rfl⟩ | ⟨-, -, i, u, -, he, rfl⟩ := step_next_cases h
  · rfl
  · exact s.beginStep_cfg
  · exact s.beginStep_cfg
  · rw [State.endStep_cfg, exec_cfg he, State.beginStep_cfg]

/-- A step that ends Running inside its frame moves PHASE up by one and drives no output. -/
theorem step_inside_frame {s t : State} (h : step s = .next t) (ht : t.run = .running)
    (hin : s.phase + 1 < s.cfg.stepsPerFrame) :
    t.phase = s.phase + 1 ∧ t.frameOut = s.frameOut ∧ t.toneActive = s.toneActive := by
  obtain ⟨-, i, u, -, he, hu, rfl⟩ := step_ends_running h ht
  have hphase : u.phase = s.phase := (exec_phase he).trans s.beginStep_phase
  have hcfg : u.cfg = s.cfg := (exec_cfg he).trans s.beginStep_cfg
  rw [State.endStep_of_inside hu (by rwa [hphase, hcfg])]
  exact ⟨congrArg (· + 1) hphase, (exec_frameOut he).trans s.beginStep_frameOut,
    (exec_toneActive he).trans s.beginStep_toneActive⟩

/-- A step that ends its frame Running sets PHASE to 0, presents the display and updates the gate (R206, R216). -/
theorem step_ends_frame {s t : State} (h : step s = .next t) (ht : t.run = .running)
    (hlast : s.cfg.stepsPerFrame ≤ s.phase + 1) :
    t.phase = 0 ∧ t.frameOut = some t.fb ∧ t.toneActive = some (decide (0 < t.st.toNat)) := by
  obtain ⟨-, i, u, -, he, hu, rfl⟩ := step_ends_running h ht
  rw [State.endStep_of_last hu (by rwa [exec_phase he, exec_cfg he, s.beginStep_phase, s.beginStep_cfg])]
  exact ⟨rfl, rfl, rfl⟩

/-- Where a run of `k` steps from the frame boundary `s` stands: `k` steps inside the frame, or at its end. -/
structure State.InFrame (s : State) (k : Nat) (t : State) : Prop where
  cfg : t.cfg = s.cfg
  /-- The one word of the frame has been read (R211). -/
  keys : t.keys = s.env.keypad
  polls : t.env.polls = s.env.polls + 1
  /-- Before the N-th step nothing is presented. -/
  inside : k < s.cfg.stepsPerFrame → t.phase = k ∧ t.frameOut = s.frameOut ∧ t.toneActive = s.toneActive
  /-- After the N-th step both outputs have been driven. -/
  atEnd : k = s.cfg.stepsPerFrame →
    t.phase = 0 ∧ t.frameOut = some t.fb ∧ t.toneActive = some (decide (0 < t.st.toNat))

/-- The first step of a frame polls the keypad. -/
theorem State.inFrame_first {s t : State} (h0 : s.phase = 0) (h : step s = .next t) (ht : t.run = .running) :
    s.InFrame 1 t := by
  obtain ⟨hr, -⟩ := step_ends_running h ht
  obtain ⟨hkeys, hpolls, -⟩ := (keypadIsPolledOncePerFrame s t hr (by simp [ht]) h).1 h0
  refine ⟨step_cfg h, hkeys, hpolls, fun hlt => ?_, fun hN => ?_⟩
  · have hin := step_inside_frame h ht (by rwa [h0])
    rwa [h0] at hin
  · exact step_ends_frame h ht (by rw [h0]; exact hN.ge)

/-- Each later step of the frame leaves K alone. -/
theorem State.InFrame.next {s t u : State} {k : Nat} (hin : s.InFrame k t) (hk : 1 ≤ k)
    (hlt : k < s.cfg.stepsPerFrame) (h : step t = .next u) (hu : u.run = .running) : s.InFrame (k + 1) u := by
  obtain ⟨hcfg, hkeys, hpolls, hinside, -⟩ := hin
  obtain ⟨hphase, hframe, htone⟩ := hinside hlt
  obtain ⟨hr, -⟩ := step_ends_running h hu
  obtain ⟨hkeys', hpolls', -⟩ := (keypadIsPolledOncePerFrame t u hr (by simp [hu]) h).2 (by omega)
  refine ⟨(step_cfg h).trans hcfg, hkeys'.trans hkeys, hpolls'.trans hpolls, fun hlt' => ?_, fun hN => ?_⟩
  · obtain ⟨hphase', hframe', htone'⟩ := step_inside_frame h hu (by rwa [hphase, hcfg])
    exact ⟨by rw [hphase', hphase], hframe'.trans hframe, htone'.trans htone⟩
  · exact step_ends_frame h hu (by rw [hphase, hcfg]; exact hN.ge)

/-- The steps of a frame one by one, from its boundary (R210). -/
theorem run_inFrame {s : State} (h0 : s.phase = 0) {k : Nat} (hk : k + 1 ≤ s.cfg.stepsPerFrame) {t : State}
    (h : Host.Core.run core (k + 1) s = .next t) (ht : t.run = .running) : s.InFrame (k + 1) t := by
  induction k generalizing t with
  | zero =>
    obtain ⟨u, hu, hrun⟩ := run_first h
    cases hrun
    exact State.inFrame_first h0 hu ht
  | succ k ih =>
    obtain ⟨u, hrun, hstep⟩ := run_last h
    obtain ⟨hur, -⟩ := step_ends_running hstep ht
    exact (ih (Nat.le_of_succ_le hk) hrun hur).next (Nat.succ_pos k) hk hstep ht

/-- Settles O42, by induction on the steps of the frame. -/
theorem frameIsNSteps : Obligations.FrameIsNSteps := by
  intro s t k _ h0 hk hN h ht
  obtain ⟨j, rfl⟩ := Nat.exists_eq_add_of_le' hk
  obtain ⟨-, hkeys, hpolls, hinside, hend⟩ := run_inFrame h0 hN h ht
  exact ⟨hkeys, hpolls, hinside, hend⟩

/-! ### The timers along a step (R171, R172, R205, R242) -/

/-- What an instruction leaves in DT (R26, R171). -/
theorem exec_dtAfter {i : Instr} {s t : State} (h : exec i s = .next t) : t.dt = s.dtAfter i := by
  have hw := congrArg State.dt (exec_takeWrites h)
  cases i
  case ldDTVx x =>
    obtain rfl := Outcome.next.inj h
    rfl
  all_goals exact hw

/-- The start of a step leaves what its instruction will leave in the timers. -/
theorem State.beginStep_dtAfter (s : State) (i : Instr) : s.beginStep.dtAfter i = s.dtAfter i := by
  rw [s.beginStep_eq]
  cases i <;> rfl

theorem State.beginStep_stAfter (s : State) (i : Instr) : s.beginStep.stAfter i = s.stAfter i := by
  rw [s.beginStep_eq]
  cases i <;> rfl

/-- Settles O43: the instruction leaves its timers, and only the end of a frame ticks them. -/
theorem timersMoveOnlyAtFrameEnds : Obligations.TimersMoveOnlyAtFrameEnds := by
  intro s t i _ _ hd h ht
  obtain ⟨-, j, u, hd', he, hu, rfl⟩ := step_ends_running h ht
  obtain rfl : i = j := Except.ok.inj (hd.symm.trans hd')
  have hdt : u.dt = s.dtAfter i := (exec_dtAfter he).trans (s.beginStep_dtAfter i)
  obtain ⟨-, -, hst⟩ := exec_hidden he
  rw [s.beginStep_stAfter] at hst
  rw [← s.beginStep_phase, ← s.beginStep_cfg, ← exec_phase he, ← exec_cfg he, ← hdt, ← hst]
  refine ⟨fun hin => ?_, fun hlast => ?_⟩
  · rw [State.endStep_of_inside hu hin]
    exact ⟨rfl, rfl⟩
  · rw [State.endStep_of_last hu hlast]
    exact ⟨tick_toNat u.dt, tick_toNat u.st⟩

/-! ### The output ports (R216, R219) -/

/-- `s` with other values in the two output ports. -/
def State.withOutputs (s : State) (d : Option Display) (b : Option Bool) : State :=
  { s with frameOut := d, toneActive := b }

section Outputs
variable (s : State) (d : Option Display) (b : Option Bool)

theorem State.skipIf_withOutputs (c : Bool) : (s.withOutputs d b).skipIf c = (s.skipIf c).withOutputs d b := by
  cases c <;> rfl

theorem State.setLogicResult_withOutputs (x : Reg) (r : Byte) :
    (s.withOutputs d b).setLogicResult x r = (s.setLogicResult x r).withOutputs d b := by
  unfold State.setLogicResult
  rw [apply_ite (State.withOutputs · d b)]
  rfl

theorem State.memWriteAll_withOutputs (a : Nat) (bs : List Byte) :
    (s.withOutputs d b).memWriteAll a bs = (s.memWriteAll a bs).withOutputs d b := by
  induction bs generalizing s a with
  | nil => rfl
  | cons c bs ih => exact ih (s.memWrite a c) (a + 1)

theorem State.loadRegs_withOutputs (rs : List Reg) :
    (s.withOutputs d b).loadRegs rs = (s.loadRegs rs).withOutputs d b := by
  unfold State.loadRegs
  induction rs generalizing s with
  | nil => rfl
  | cons q rs ih => exact ih (s.setV q (s.memRead (s.ea q.val)))

theorem State.afterBlock_withOutputs (x : Reg) :
    (s.withOutputs d b).afterBlock x = (s.afterBlock x).withOutputs d b := by
  rw [State.afterBlock_eq, State.afterBlock_eq]
  rfl

theorem State.beginStep_withOutputs : (s.withOutputs d b).beginStep = s.beginStep.withOutputs d b := by
  by_cases h0 : s.phase = 0
  · cases hsig : s.env.shutdownIn with
    | none => simp [State.beginStep, State.beginFrame, State.withOutputs, State.poll, h0, hsig]
    | some n => cases n <;> simp [State.beginStep, State.beginFrame, State.withOutputs, State.poll, h0, hsig]
  · simp [State.beginStep, State.withOutputs, h0]

/-- The end of a step drives both outputs or neither, and does the same to everything else. -/
theorem State.endStep_withOutputs : ∃ d' b', (s.withOutputs d b).endStep = s.endStep.withOutputs d' b' := by
  obtain ⟨hr, he⟩ | ⟨hr, hin, he⟩ | ⟨hr, hlast, he⟩ := s.endStep_cases
  · exact ⟨d, b, by rw [he]; exact if_neg hr⟩
  · exact ⟨d, b, by rw [he]; exact State.endStep_of_inside hr hin⟩
  · exact ⟨_, _, by rw [he]; exact State.endStep_of_last hr hlast⟩

/-- An instruction reads neither output and leaves both (R216). -/
theorem exec_withOutputs {s t : State} {i : Instr} (h : exec i s = .next t) :
    exec i (s.withOutputs d b) = .next (t.withOutputs d b) := by
  cases i
  case addI x =>
    obtain ⟨hc, rfl⟩ := exec_addI_next h
    exact exec_addI (s := s.withOutputs d b) hc x
  case ldVxK x =>
    obtain ⟨hc, ⟨hk, rfl⟩ | ⟨k, hk, rfl⟩⟩ := exec_ldVxK_next h
    · exact exec_ldVxK_none (s := t.withOutputs d b) hc hk x
    · exact exec_ldVxK_some (s := s.withOutputs d b) hc hk x
  case call nnn =>
    obtain ⟨h16, rfl⟩ | ⟨hlt, rfl⟩ := exec_call_cases h
    · exact exec_call_of_full (s := s.withOutputs d b) nnn h16
    · exact exec_call_of_lt (s := s.withOutputs d b) nnn hlt
  case ret =>
    obtain ⟨h0, rfl⟩ | ⟨hslot, hpos, rfl⟩ := exec_ret_cases h
    · exact exec_ret_of_empty (s := s.withOutputs d b) h0
    · exact exec_ret_of_pos (s := s.withOutputs d b) hpos (Vector.getElem?_eq_getElem hslot)
  all_goals obtain rfl := Outcome.next.inj h
  case seImm x kk | sneImm x kk | seReg x y | sneReg x y | skp x | sknp x =>
    exact congrArg Outcome.next (s.skipIf_withOutputs d b _)
  case orReg x y | andReg x y | xorReg x y =>
    exact congrArg (Outcome.next ∘ State.advance) (s.setLogicResult_withOutputs d b x _)
  case ldB x =>
    exact congrArg (Outcome.next ∘ State.advance) (s.memWriteAll_withOutputs d b _ _)
  case ldMemVx x =>
    change Outcome.next (State.advance (State.afterBlock (State.memWriteAll _ _ _) x)) = _
    rw [State.memWriteAll_withOutputs, State.afterBlock_withOutputs]
    rfl
  case ldVxMem x =>
    change Outcome.next (State.advance (State.afterBlock (State.loadRegs _ _) x)) = _
    rw [State.loadRegs_withOutputs, State.afterBlock_withOutputs]
    rfl
  all_goals rfl

theorem State.instrStep_withOutputs {s t : State} (h : s.instrStep = .next t) :
    (s.withOutputs d b).instrStep = .next (t.withOutputs d b) := by
  obtain ⟨i, hd, he⟩ | ⟨r, hd, rfl⟩ := State.instrStep_cases h
  · exact (State.instrStep_of_ok (s := s.withOutputs d b) hd).trans (exec_withOutputs d b he)
  · exact State.instrStep_of_error (s := s.withOutputs d b) hd

end Outputs

/-- Settles O50: each part of the step does the same with other values in the output ports. -/
theorem outputsAreNotRead : Obligations.OutputsAreNotRead := by
  intro s t d b h
  change ∃ d' b', step (s.withOutputs d b) = .next (t.withOutputs d' b')
  have hbegin := s.beginStep_withOutputs d b
  obtain ⟨hs, rfl⟩ | ⟨hr, hN, ⟨hb, rfl⟩ | ⟨hb, u, hu, rfl⟩⟩ := step_cases h
  · exact ⟨d, b, step_stopped (s := t.withOutputs d b) hs⟩
  · refine ⟨d, b, ?_⟩
    rw [← hbegin]
    exact step_of_beginStep_stops (s := s.withOutputs d b) hr (Nat.one_le_iff_ne_zero.2 hN) (by rw [hbegin]; exact hb)
  · obtain ⟨d', b', hend⟩ := u.endStep_withOutputs d b
    refine ⟨d', b', ?_⟩
    rw [step_running (s := s.withOutputs d b) hr (Nat.one_le_iff_ne_zero.2 hN) (by rw [hbegin]; exact hb), hbegin,
      State.instrStep_withOutputs d b hu]
    exact congrArg Outcome.next hend

/-! ### Idleness (R225, R207) -/

/-- Only the low 12 bits of PC are seen by the fetch (R51, R54). -/
theorem State.fetch_setPC {s : State} {w : Word} (hw : w.setWidth 12 = s.pc.setWidth 12) : (s.setPC w).fetch = s.fetch := by
  have hmod : w.toNat % 4096 = s.pc.toNat % 4096 := by
    simpa only [BitVec.toNat_setWidth] using congrArg BitVec.toNat hw
  have hnext : (w.toNat + 1) % 4096 = (s.pc.toNat + 1) % 4096 := by omega
  simp only [State.fetch, State.memRead, State.setPC_pc, State.setPC_mem, memSize, hmod, hnext]

/-- What an idle machine fetches is the jump to where it is. -/
theorem State.decodeWord_fetch_of_idleAt {s : State} {a : Addr} (h : s.idleAt a) : decodeWord s.fetch = .ok (.jp a) := by
  obtain ⟨-, -, hf⟩ := h
  rw [hf]
  exact decodeWord_encode rfl

/-- The state after the jump of a machine idle at `a`, with the frame actions around it. -/
def State.idleStep (s : State) (a : Addr) : State := (s.beginStep.setPC (addrOperand a)).endStep

section Idle
variable {s : State} {a : Addr} (hidle : s.idleAt a)
include hidle

/-- The step of an idle machine is the jump. -/
theorem step_idle (hN : 1 ≤ s.cfg.stepsPerFrame) (hb : s.beginStep.run = .running) : step s = .next (s.idleStep a) :=
  stepRunsTheDecodedInstruction s (.jp a) hidle.1 hN hb (State.decodeWord_fetch_of_idleAt hidle)

/-- After the jump PC has the same low 12 bits, so the same word is fetched there. -/
theorem State.idleStep_idleAt (hb : s.beginStep.run = .running) : (s.idleStep a).idleAt a := by
  obtain ⟨-, hpc, hf⟩ := hidle
  have hlow : (addrOperand a).setWidth 12 = a := by
    rw [addrOperand, BitVec.setWidth_setWidth_of_le _ (by decide), BitVec.setWidth_eq]
  refine ⟨?_, ?_, ?_⟩
  · rw [State.idleStep, State.endStep_run]; exact hb
  · rw [State.idleStep, State.endStep_pc]; exact hlow
  · have hsame : (addrOperand a).setWidth 12 = s.beginStep.pc.setWidth 12 := by rw [hlow, State.beginStep_pc, hpc]
    rw [State.idleStep, State.endStep_fetch, State.fetch_setPC hsame, State.beginStep_fetch, hf]

/-- The jump and the frame actions write PC, K, the timers, the outputs, PHASE and the inputs alone. -/
theorem State.idleStep_eq (hb : s.beginStep.run = .running) :
    s.idleStep a = { s with
      pc := (s.idleStep a).pc
      keys := (s.idleStep a).keys
      dt := (s.idleStep a).dt
      st := (s.idleStep a).st
      phase := (s.idleStep a).phase
      frameOut := (s.idleStep a).frameOut
      toneActive := (s.idleStep a).toneActive
      env := (s.idleStep a).env } := by
  have hrun : s.beginStep.run = s.run := hb.trans hidle.1.symm
  have hbegin := s.beginStep_eq
  rw [hrun] at hbegin
  rw [State.idleStep, hbegin]
  obtain ⟨-, he⟩ | ⟨-, -, he⟩ | ⟨-, -, he⟩ := State.endStep_cases (State.setPC _ (addrOperand a)) <;> rw [he] <;> rfl

end Idle

/-- Settles O52: the state after the jump. -/
theorem idleMachineStaysIdle : Obligations.IdleMachineStaysIdle := fun s a hidle hN hb =>
  ⟨s.idleStep a, step_idle hidle hN hb, State.idleStep_idleAt hidle hb, State.idleStep_eq hidle hb⟩

/-- A machine idle at `a` whose frames have steps and that no shutdown stops. -/
structure State.Undisturbed (s : State) (a : Addr) : Prop where
  idle : s.idleAt a
  steps : 1 ≤ s.cfg.stepsPerFrame
  signal : s.env.shutdownIn = none

/-- Where no shutdown is raised the start of a step stops nothing and raises none. -/
theorem State.beginStep_of_no_shutdown {s : State} (hr : s.run = .running) (hsig : s.env.shutdownIn = none) :
    s.beginStep.run = .running ∧ s.beginStep.env.shutdownIn = none := by
  obtain ⟨-, hs⟩ | ⟨-, hstop, -⟩ | ⟨-, -, hs⟩ := s.beginStep_cases
  · rw [hs]; exact ⟨hr, hsig⟩
  · rw [hsig] at hstop
    cases hstop
  · rw [hs]; exact ⟨hr, congrArg (Option.map (· - 1)) hsig⟩

/-- A step of such a machine leaves it so; inside a frame both timers stand, and the last step of a frame takes both down by 1,
to 0 (R205, R207). -/
theorem State.Undisturbed.next {s : State} {a : Addr} (h : s.Undisturbed a) :
    ∃ t, step s = .next t ∧ t.Undisturbed a ∧ t.cfg = s.cfg ∧
      (s.phase + 1 < s.cfg.stepsPerFrame → t.phase = s.phase + 1 ∧ t.dt = s.dt ∧ t.st = s.st) ∧
      (s.cfg.stepsPerFrame ≤ s.phase + 1 →
        t.phase = 0 ∧ t.dt.toNat = s.dt.toNat - 1 ∧ t.st.toNat = s.st.toNat - 1) := by
  obtain ⟨hidle, hN, hsig⟩ := h
  have hr : s.run = .running := hidle.1
  obtain ⟨hb, hsig'⟩ := State.beginStep_of_no_shutdown hr hsig
  have hstep := step_idle hidle hN hb
  have hidle' := State.idleStep_idleAt hidle hb
  obtain ⟨hin, hlast⟩ :=
    timersMoveOnlyAtFrameEnds s _ _ hr hb (State.decodeWord_fetch_of_idleAt hidle) hstep hidle'.1
  refine ⟨s.idleStep a, hstep, ⟨hidle', (step_cfg hstep).symm ▸ hN, ?_⟩, step_cfg hstep, fun h => ?_, fun h => ?_⟩
  · rw [State.idleStep, State.endStep_env]; exact hsig'
  · exact ⟨(step_inside_frame hstep hidle'.1 h).1, hin h⟩
  · exact ⟨(step_ends_frame hstep hidle'.1 h).1, hlast h⟩

/-- At a frame boundary after `f` frame ends of an idle machine. -/
structure State.RunDown (s : State) (a : Addr) (f : Nat) (t : State) : Prop where
  undisturbed : t.Undisturbed a
  cfg : t.cfg = s.cfg
  phase : t.phase = 0
  dt : t.dt.toNat = s.dt.toNat - f
  st : t.st.toNat = s.st.toNat - f

/-- The `j + 1` steps that are left of a frame end it, and take both timers down by 1. -/
theorem State.Undisturbed.run_to_frame_end {a : Addr} {j : Nat} {s : State} (h : s.Undisturbed a)
    (hj : s.phase + (j + 1) = s.cfg.stepsPerFrame) :
    ∃ t, Host.Core.run core (j + 1) s = .next t ∧ s.RunDown a 1 t := by
  induction j generalizing s with
  | zero =>
    obtain ⟨u, hstep, hu, hcfg, -, hlast⟩ := h.next
    obtain ⟨hphase, hdt, hst⟩ := hlast hj.ge
    exact ⟨u, by rw [run_succ, hstep]; rfl, hu, hcfg, hphase, hdt, hst⟩
  | succ j ih =>
    obtain ⟨u, hstep, hu, hcfg, hin, -⟩ := h.next
    obtain ⟨hphase, hdt, hst⟩ := hin (by omega)
    obtain ⟨t, hrun, ht, hcfg', hphase', hdt', hst'⟩ := ih hu (by rw [hphase, hcfg]; omega)
    exact ⟨t, by rw [run_succ, hstep]; exact hrun, ht, hcfg'.trans hcfg, hphase', hdt ▸ hdt', hst ▸ hst'⟩

/-- `f` frames one after the other. -/
theorem State.Undisturbed.run_frames {a : Addr} (f : Nat) {s : State} (h : s.Undisturbed a) (h0 : s.phase = 0) :
    ∃ t, Host.Core.run core (f * s.cfg.stepsPerFrame) s = .next t ∧ s.RunDown a f t := by
  induction f with
  | zero => exact ⟨s, by rw [Nat.zero_mul]; rfl, h, rfl, h0, rfl, rfl⟩
  | succ f ih =>
    obtain ⟨t, hrun, ht, hcfg, hphase, hdt, hst⟩ := ih
    obtain ⟨j, hj⟩ := Nat.exists_eq_add_of_le' h.steps
    obtain ⟨u, hframe, hu, hcfg', hphase', hdt', hst'⟩ := ht.run_to_frame_end (j := j) (by rw [hphase, hcfg, hj]; omega)
    refine ⟨u, ?_, hu, hcfg'.trans hcfg, hphase', by omega, by omega⟩
    rw [Nat.succ_mul, run_add, hrun, hj]
    exact hframe

/-- Settles O53, by induction on the frames, and in a frame on the steps that are left of it. -/
theorem timersRunDownWhileIdle : Obligations.TimersRunDownWhileIdle := by
  intro f s a hidle hN h0 hsig
  obtain ⟨t, hrun, ht⟩ := State.Undisturbed.run_frames f ⟨hidle, hN, hsig⟩ h0
  exact ⟨t, hrun, ht.undisturbed.idle, ht.phase, ht.dt, ht.st⟩

end Sys2Proof.Machine

/-! ## Reset and hazards (spec/70_reset_and_hazards.md): an image that fits the program space is loaded (R231), a larger one is
refused (R232) -/

namespace Sys2Proof.Machine

/-- An image that fits leaves every byte below the program base as an empty image does: both leave what the font left. -/
theorem State.booted_memRead_below (cfg : Config) (env : Env) {rom : List Byte} (hl : rom.length ≤ romMax) {a : Nat}
    (ha : a < 0x200) : (State.booted cfg env rom).memRead a = (State.booted cfg env []).memRead a := by
  have hempty : ([] : List Byte).length ≤ romMax := Nat.zero_le _
  rw [State.booted_memRead_outside cfg env hl (.inl ha), State.booted_memRead_outside cfg env hempty (.inl ha)]

/-- An image above the program space's size is refused before the parameters are looked at. -/
theorem boot_eq_refused_of_romMax_lt (cfg : Config) (env : Env) {rom : List Byte} (h : romMax < rom.length) :
    boot cfg env rom = .refused .romTooLarge := by
  rw [boot, if_pos h]

/-- Settles O57: the image is read back from memory, and the bytes below it are those the font left, with any image. -/
theorem imageIsLoadedAt0x200 : Obligations.ImageIsLoadedAt0x200 := fun cfg env rom hc hl =>
  ⟨State.booted cfg env rom, State.booted cfg env [], boot_eq env hc hl, boot_eq env hc (Nat.zero_le _),
    State.booted_memRead_image cfg env hl, fun _ ha => State.booted_memRead_below cfg env hl ha,
    State.booted_memRead_font cfg env hl⟩

/-- Settles O59: the size of the image is the first thing that reset tests. -/
theorem tooLargeAnImageIsRefused : Obligations.TooLargeAnImageIsRefused :=
  fun cfg env _ h => boot_eq_refused_of_romMax_lt cfg env h

end Sys2Proof.Machine
